-- ==== Sys2Proof/Word.lean ====
section
/-! DEFINITION. The word types of SPD-CORE (00_scope.md R9, R11). -/

namespace Sys2Proof

/-- A 32-bit host register word (10_state.md R34). -/
abbrev Word := BitVec 32

/-- A 64-bit unsigned sample position, also the width of a data value (00_scope.md R9). -/
abbrev Sample := BitVec 64

/-- One level bit: `false` is Low (0), `true` is High (1) (00_scope.md R11). -/
abbrev Level := Bool

end Sys2Proof
end

