-- ==== Sys2Proof/Config.lean ====
section
/-! DEFINITION. What a platform fixes and the spec leaves open: the two OPEN parameters that are
constants of a platform. Neither has a body, so no proof can see a value. (The capture, the horizon
schedule and the host's schedule, the other open parameters, are plain data of State.) -/

namespace Sys2Proof

/-- `SPD_BASE`, the base address of the host register space in the platform's address map
(20_memory.md R56, 93_implementation_defined.md U10). Log entry 14. -/
opaque Config.spdBase : Nat

/-- `HOST_ERR_SIGNAL`, whether the platform's bus also signals an error for a refused host access
(46_host_interface.md R155, 93_implementation_defined.md U9). Log entry 14. -/
opaque Config.hostErrSignal : Bool

end Sys2Proof
end

