-- ==== Sys2Proof/Syntax.lean ====
section
/-! DEFINITION. The names the spec gives things: channels, operand selectors, the instructions (one
constructor per row of spec/opcode_table.json), event records, raw code words and the labels of the
pseudocode. -/

namespace Sys2Proof

/-- The four channel roles, in the order of the `cc` field (30_encoding.md R73). -/
inductive Channel where
  | clk | dout | din | en
  deriving DecidableEq, Repr

/-- The two bit accumulators (10_state.md R32). -/
inductive AccSel where
  | dout | din
  deriving DecidableEq, Repr

/-- The 64-bit working registers that hold sample positions (10_state.md R23 to R26). -/
inductive SampleReg where
  | cs | fs | ds | es | rs | rn
  deriving DecidableEq, Repr

/-- Where `Cur.advTo` and `Cur.wouldCross` read their sample operand: `CS`, `RS` or `RN`
(30_encoding.md R81). -/
inductive SampleSel where
  | cs | rs | rn
  deriving DecidableEq, Repr

/-- Where a `DISABLE` record reads its sample: `RS` at `RC.10`, `DS` at `GW.20` (45_events.md R143). -/
inductive DisableSel where
  | rs | ds
  deriving DecidableEq, Repr

/-- The instructions: the primitive steps (`OPC`), the procedures (`PROC`) and the host accesses
(`HA`) of the opcode table. An operand that the table leaves to the call site is an argument. -/
inductive Instr where
  -- cursor class, 40_cursor.md R96 to R102
  | curLevelClk | curLevelDout | curLevelDin | curLevelEn
  | curPosClk | curPosDout | curPosDin | curPosEn
  | curAdvEdgeClk | curAdvEdgeDout | curAdvEdgeDin | curAdvEdgeEn
  | curAdvToClk (src : SampleSel) | curAdvToDout (src : SampleSel)
  | curAdvToDin (src : SampleSel) | curAdvToEn (src : SampleSel)
  | curNextEdgeClk | curNextEdgeDout | curNextEdgeDin | curNextEdgeEn
  | curWouldCrossClk (src : SampleSel) | curWouldCrossDout (src : SampleSel)
  | curWouldCrossDin (src : SampleSel) | curWouldCrossEn (src : SampleSel)
  | curHasMoreClk | curHasMoreDout | curHasMoreDin | curHasMoreEn
  -- accumulator class, 41_accumulator.md R105, R106
  | accResetDout | accResetDin
  | accAddBitDout0 | accAddBitDout1 | accAddBitDin0 | accAddBitDin1
  -- control class, 44_word_extraction.md R126
  | poll
  -- event class, 45_events.md R141 to R145
  | emitStart | emitError | emitDisable (src : DisableSel) | emitResult
  | emitMarkerUp | emitMarkerDown | emitMarkerError
  -- procedures, 30_encoding.md R75
  | procRun | procSetup | procResync | procAdvActiveEnable | procNextActiveEdge
  | procRaceCheck (emit : Bool) | procGetWord | procSampleData
  -- host accesses, 46_host_interface.md R150 to R154
  | rdCfg | wrCfg (v : Word) | rdCtrl | wrCtrl (v : Word) | rdStatus | wrStatus (v : Word)
  | rdRsvd | wrRsvd (v : Word) | go | cancel
  deriving DecidableEq, Repr

/-- `Cur.level(c)`. -/
def Instr.level : Channel → Instr
  | .clk => .curLevelClk | .dout => .curLevelDout | .din => .curLevelDin | .en => .curLevelEn

/-- `Cur.pos(c)`. -/
def Instr.pos : Channel → Instr
  | .clk => .curPosClk | .dout => .curPosDout | .din => .curPosDin | .en => .curPosEn

/-- `Cur.advEdge(c)`. -/
def Instr.advEdge : Channel → Instr
  | .clk => .curAdvEdgeClk | .dout => .curAdvEdgeDout
  | .din => .curAdvEdgeDin | .en => .curAdvEdgeEn

/-- `Cur.advTo(c, s)`. -/
def Instr.advTo : Channel → SampleSel → Instr
  | .clk => .curAdvToClk | .dout => .curAdvToDout | .din => .curAdvToDin | .en => .curAdvToEn

/-- `Cur.nextEdge(c)`. -/
def Instr.nextEdge : Channel → Instr
  | .clk => .curNextEdgeClk | .dout => .curNextEdgeDout
  | .din => .curNextEdgeDin | .en => .curNextEdgeEn

/-- `Cur.wouldCross(c, s)`. -/
def Instr.wouldCross : Channel → SampleSel → Instr
  | .clk => .curWouldCrossClk | .dout => .curWouldCrossDout
  | .din => .curWouldCrossDin | .en => .curWouldCrossEn

/-- `Cur.hasMore(c)`. -/
def Instr.hasMore : Channel → Instr
  | .clk => .curHasMoreClk | .dout => .curHasMoreDout
  | .din => .curHasMoreDin | .en => .curHasMoreEn

/-- `AccReset(a)`. -/
def Instr.accReset : AccSel → Instr
  | .dout => .accResetDout | .din => .accResetDin

/-- `AccAddBit(a, b)`. -/
def Instr.accAddBit : AccSel → Level → Instr
  | .dout, false => .accAddBitDout0 | .dout, true => .accAddBitDout1
  | .din, false => .accAddBitDin0 | .din, true => .accAddBitDin1

/-- The marker kinds of the `kk` field (30_encoding.md R76). -/
inductive MarkerKind where
  | up | down | error
  deriving DecidableEq, Repr

/-- `emit MARKER(_, k)`. -/
def Instr.marker : MarkerKind → Instr
  | .up => .emitMarkerUp | .down => .emitMarkerDown | .error => .emitMarkerError

/-- An event record of the output stream (45_events.md R141 to R145). -/
inductive Record where
  | start (s : Sample)
  | error (s e : Sample)
  | disable (s : Sample)
  | result (s e : Sample) (dout din : BitVec 64) (width : BitVec 7)
  | marker (s : Sample) (k : MarkerKind)
  deriving DecidableEq, Repr

/-- The key that orders records: the sample, or the end sample of `ERROR` and `RESULT`
(20_memory.md R58). -/
def Record.key : Record → Sample
  | .start s => s
  | .error _ e => e
  | .disable s => s
  | .result _ e _ _ _ => e
  | .marker s _ => s

/-- The 320-bit record `REC` as its five words (30_encoding.md R78). -/
structure Rec where
  w0 : BitVec 64
  w1 : BitVec 64
  w2 : BitVec 64
  w3 : BitVec 64
  w4 : BitVec 64
  deriving DecidableEq, Repr

/-- What carries a code word, which fixes its length (30_encoding.md R67). -/
inductive Format where
  | opc | proc | ha
  deriving DecidableEq, Repr

/-- A raw code word: the carrier, its code bits (8 for `OPC`; 5 for `PROC` and `HA`, in the low
bits) and the operand that goes with it: the 32 data bits of a host write, the `emit` bit of
`RACE_CHECK`, the selector of a working register. The selector's numbering is the model's own
(log entry 3). -/
structure Code where
  fmt  : Format
  bits : BitVec 8
  opnd : BitVec 32
  deriving DecidableEq, Repr

/-- The labelled lines of the pseudocode of the 40-series files (10_state.md R30), and five points of
it that have no label of their own. `gw4next` is the loop edge of `for I` at `GW.4`: what follows
`GW.17` in an iteration. `gwRet` is the `return` that follows the `call RESYNC` of `GW.6`, `GW.15`
and `GW.20` (log entry 6). `ae2n1` to `ae2n3` are `NA.1` to `NA.3` as `AE.2` calls them where four
labels stand, in the place of `ADV_ACTIVE_ENABLE`'s own label (log entry 8). -/
inductive Label where
  | run1 | run2 | run3 | run4
  | su1
  | rs1 | rs2 | rs3 | rs4 | rs5 | rs6 | rs7 | rs8 | rs9
  | ae1 | ae2 | ae2n1 | ae2n2 | ae2n3 | ae3 | ae4
  | na1 | na2 | na3
  | rc1 | rc2 | rc3 | rc4 | rc5 | rc6 | rc7 | rc8 | rc9 | rc10
  | gw1 | gw2 | gw3 | gw4 | gw5 | gw6 | gw7 | gw8 | gw9 | gw10 | gw11 | gw12 | gw13 | gw14
  | gw15 | gw16 | gw17 | gw4next | gw18 | gw19 | gw20 | gwRet
  | sd1 | sd2 | sd3 | sd4 | sd5 | sd6
  deriving DecidableEq, Repr

/-- An entry of the control point: a label of the pseudocode, or one code word standing alone. No
run holds a `word`: it stands where a single operation is to be performed outside the procedures
(log entry 2). -/
inductive Point where
  | line (l : Label)
  | word (c : Code)
  deriving DecidableEq, Repr

end Sys2Proof
end

