-- ==== Sys2Proof/WellFormed.lean ====
section
/-! DEFINITION. Which instructions and records are well formed. -/

namespace Sys2Proof

/-- An instruction is well formed when it is the one name of its word: a `CTRL` write of exactly
0x1 or 0x2 is named `GO` or `CANCEL` (30_encoding.md R86), so `wrCtrl` carries every other value. -/
def Instr.wf : Instr → Bool
  | .wrCtrl v => v != 1#32 && v != 2#32
  | _ => true

/-- The widths a `RESULT` record may carry: 1 to 64 (30_encoding.md R79). -/
def Record.wf : Record → Bool
  | .result _ _ _ _ w => decide (1 ≤ w.toNat) && decide (w.toNat ≤ 64)
  | _ => true

end Sys2Proof
end

