-- ==== Sys2Proof/Decode.lean ====
section
/-! DEFINITION. Decoding and encoding: the code words of the three instruction formats, the event
record `REC`, and the two fixed names the host asks with. Decoding follows the FIELDS of
30_encoding.md R72 to R77 and R88; encoding is written from the CODES its tables list. -/

namespace Sys2Proof

/-! ## Fields -/

/-- The `cc` field (30_encoding.md R73). -/
def channelOf (cc : BitVec 2) : Channel :=
  match cc.toNat with
  | 0 => .clk
  | 1 => .dout
  | 2 => .din
  | _ => .en

/-- The selector of a sample operand; the numbering is the model's own (log entry 3). -/
def sampleSelOf (o : BitVec 32) : Option SampleSel :=
  match o.toNat with
  | 0 => some .cs
  | 1 => some .rs
  | 2 => some .rn
  | _ => none

/-- The selector of a `DISABLE` record's sample; the numbering is the model's own (log entry 3). -/
def disableSelOf (o : BitVec 32) : Option DisableSel :=
  match o.toNat with
  | 0 => some .rs
  | 1 => some .ds
  | _ => none

/-- An operation that takes no operand: any operand word but 0 is rejected. -/
def plain (o : BitVec 32) (i : Instr) : Option Instr := if o = 0#32 then some i else none

/-! ## Decoding a code word -/

/-- Cursor class, `00 ooo 0 cc` (30_encoding.md R73). -/
def decodeCursor (ooo : BitVec 3) (bit2 : Bool) (cc : BitVec 2) (o : BitVec 32) : Option Instr :=
  let c := channelOf cc
  if bit2 then none else
  match ooo.toNat with
  | 1 => plain o (.level c)
  | 2 => plain o (.pos c)
  | 3 => plain o (.advEdge c)
  | 4 => (sampleSelOf o).map (.advTo c)
  | 5 => plain o (.nextEdge c)
  | 6 => (sampleSelOf o).map (.wouldCross c)
  | 7 => plain o (.hasMore c)
  | _ => none

/-- The `aa` field (30_encoding.md R74): `00` and `11` are reserved. -/
def accSelOf (aa : BitVec 2) : Option AccSel :=
  match aa.toNat with
  | 1 => some .dout
  | 2 => some .din
  | _ => none

/-- Accumulator class, `01 ooo b aa` (30_encoding.md R74). -/
def decodeAcc (ooo : BitVec 3) (b : Bool) (aa : BitVec 2) (o : BitVec 32) : Option Instr :=
  match ooo.toNat with
  | 1 => if b then none else (accSelOf aa).bind fun a => plain o (.accReset a)
  | 2 => (accSelOf aa).bind fun a => plain o (.accAddBit a b)
  | _ => none

/-- Control class, `10 000001` (30_encoding.md R77). -/
def decodeControl (low : BitVec 6) (o : BitVec 32) : Option Instr :=
  if low = 1#6 then plain o .poll else none

/-- Event class, `11 tttt kk` (30_encoding.md R76). -/
def decodeEvent (tttt : BitVec 4) (kk : BitVec 2) (o : BitVec 32) : Option Instr :=
  match tttt.toNat, kk.toNat with
  | 1, 0 => plain o .emitStart
  | 2, 0 => plain o .emitError
  | 3, 0 => (disableSelOf o).map .emitDisable
  | 4, 0 => plain o .emitResult
  | 5, 0 => plain o (.marker .up)
  | 5, 1 => plain o (.marker .down)
  | 5, 2 => plain o (.marker .error)
  | _, _ => none

/-- An `OPC` value: the class in bits [7:6], then the fields of the class (30_encoding.md R72,
R85). -/
def decodeOpc (b : BitVec 8) (o : BitVec 32) : Option Instr :=
  match (b.extractLsb' 6 2).toNat with
  | 0 => decodeCursor (b.extractLsb' 3 3) (b.getLsbD 2) (b.extractLsb' 0 2) o
  | 1 => decodeAcc (b.extractLsb' 3 3) (b.getLsbD 2) (b.extractLsb' 0 2) o
  | 2 => decodeControl (b.extractLsb' 0 6) o
  | _ => decodeEvent (b.extractLsb' 2 4) (b.extractLsb' 0 2) o

/-- A `PROC` id, 5 bits (30_encoding.md R75); `RACE_CHECK` takes the one-bit operand `emit`. -/
def decodeProc (b : BitVec 8) (o : BitVec 32) : Option Instr :=
  match b.toNat with
  | 1 => plain o .procRun
  | 2 => plain o .procSetup
  | 3 => plain o .procResync
  | 4 => plain o .procAdvActiveEnable
  | 5 => plain o .procNextActiveEdge
  | 6 => if o = 0#32 then some (.procRaceCheck false)
         else if o = 1#32 then some (.procRaceCheck true) else none
  | 7 => plain o .procGetWord
  | 8 => plain o .procSampleData
  | _ => none

/-- A write of `CTRL`, under the one name of its word (30_encoding.md R86). -/
def ctrlWrite (v : Word) : Instr :=
  if v = 1#32 then .go else if v = 2#32 then .cancel else .wrCtrl v

/-- A host access code, `W ++ offset[3:0]` (30_encoding.md R88); the operand is the data written. -/
def decodeHa (b : BitVec 8) (v : BitVec 32) : Option Instr :=
  if b.extractLsb' 5 3 = 0#3 then
    match b.getLsbD 4, (b.extractLsb' 0 4).toNat with
    | false, 0x0 => plain v .rdCfg
    | true, 0x0 => some (.wrCfg v)
    | false, 0x4 => plain v .rdCtrl
    | true, 0x4 => some (ctrlWrite v)
    | false, 0x8 => plain v .rdStatus
    | true, 0x8 => some (.wrStatus v)
    | false, 0xC => plain v .rdRsvd
    | true, 0xC => some (.wrRsvd v)
    | _, _ => none
  else none

/-- The instruction a code word names, if it names one. -/
def decode (c : Code) : Option Instr :=
  match c.fmt with
  | .opc => decodeOpc c.bits c.opnd
  | .proc => decodeProc c.bits c.opnd
  | .ha => decodeHa c.bits c.opnd

/-! ## Encoding -/

/-- A selector's bits (log entry 3). -/
def SampleSel.bits : SampleSel → BitVec 32
  | .cs => 0#32
  | .rs => 1#32
  | .rn => 2#32

/-- A selector's bits (log entry 3). -/
def DisableSel.bits : DisableSel → BitVec 32
  | .rs => 0#32
  | .ds => 1#32

/-- An `OPC` code word. -/
def opcWord (b : BitVec 8) (o : BitVec 32 := 0#32) : Code := ⟨.opc, b, o⟩

/-- A `PROC` code word. -/
def procWord (b : BitVec 8) (o : BitVec 32 := 0#32) : Code := ⟨.proc, b, o⟩

/-- An `HA` code word. -/
def haWord (b : BitVec 8) (o : BitVec 32 := 0#32) : Code := ⟨.ha, b, o⟩

/-- The code word of an instruction, from the codes listed in 30_encoding.md R73 to R77 and R88. -/
def encode : Instr → Code
  | .curLevelClk => opcWord 0x08
  | .curLevelDout => opcWord 0x09
  | .curLevelDin => opcWord 0x0A
  | .curLevelEn => opcWord 0x0B
  | .curPosClk => opcWord 0x10
  | .curPosDout => opcWord 0x11
  | .curPosDin => opcWord 0x12
  | .curPosEn => opcWord 0x13
  | .curAdvEdgeClk => opcWord 0x18
  | .curAdvEdgeDout => opcWord 0x19
  | .curAdvEdgeDin => opcWord 0x1A
  | .curAdvEdgeEn => opcWord 0x1B
  | .curAdvToClk r => opcWord 0x20 r.bits
  | .curAdvToDout r => opcWord 0x21 r.bits
  | .curAdvToDin r => opcWord 0x22 r.bits
  | .curAdvToEn r => opcWord 0x23 r.bits
  | .curNextEdgeClk => opcWord 0x28
  | .curNextEdgeDout => opcWord 0x29
  | .curNextEdgeDin => opcWord 0x2A
  | .curNextEdgeEn => opcWord 0x2B
  | .curWouldCrossClk r => opcWord 0x30 r.bits
  | .curWouldCrossDout r => opcWord 0x31 r.bits
  | .curWouldCrossDin r => opcWord 0x32 r.bits
  | .curWouldCrossEn r => opcWord 0x33 r.bits
  | .curHasMoreClk => opcWord 0x38
  | .curHasMoreDout => opcWord 0x39
  | .curHasMoreDin => opcWord 0x3A
  | .curHasMoreEn => opcWord 0x3B
  | .accResetDout => opcWord 0x49
  | .accResetDin => opcWord 0x4A
  | .accAddBitDout0 => opcWord 0x51
  | .accAddBitDout1 => opcWord 0x55
  | .accAddBitDin0 => opcWord 0x52
  | .accAddBitDin1 => opcWord 0x56
  | .poll => opcWord 0x81
  | .emitStart => opcWord 0xC4
  | .emitError => opcWord 0xC8
  | .emitDisable r => opcWord 0xCC r.bits
  | .emitResult => opcWord 0xD0
  | .emitMarkerUp => opcWord 0xD4
  | .emitMarkerDown => opcWord 0xD5
  | .emitMarkerError => opcWord 0xD6
  | .procRun => procWord 1
  | .procSetup => procWord 2
  | .procResync => procWord 3
  | .procAdvActiveEnable => procWord 4
  | .procNextActiveEdge => procWord 5
  | .procRaceCheck e => procWord 6 (if e then 1#32 else 0#32)
  | .procGetWord => procWord 7
  | .procSampleData => procWord 8
  | .rdCfg => haWord 0x00
  | .wrCfg v => haWord 0x10 v
  | .rdCtrl => haWord 0x04
  | .wrCtrl v => haWord 0x14 v
  | .rdStatus => haWord 0x08
  | .wrStatus v => haWord 0x18 v
  | .rdRsvd => haWord 0x0C
  | .wrRsvd v => haWord 0x1C v
  | .go => haWord 0x14 1#32
  | .cancel => haWord 0x14 2#32

/-! ## Event records -/

/-- The marker kind's bits `kk` (30_encoding.md R76). -/
def MarkerKind.bits : MarkerKind → BitVec 2
  | .up => 0#2
  | .down => 1#2
  | .error => 2#2

/-- The event-class code of a record (30_encoding.md R76). -/
def Record.opc : Record → BitVec 8
  | .start _ => 0xC4
  | .error _ _ => 0xC8
  | .disable _ => 0xCC
  | .result _ _ _ _ _ => 0xD0
  | .marker _ .up => 0xD4
  | .marker _ .down => 0xD5
  | .marker _ .error => 0xD6

/-- Header word W0: `WIDTH` at [22:16], `ERR` at [8], `OPC` at [7:0], the rest 0 (30_encoding.md
R79). -/
def recHeader (opc : BitVec 8) (err : Bool) (width : BitVec 7) : BitVec 64 :=
  ((0#41 ++ width) ++ 0#7 ++ BitVec.ofBool err ++ opc).cast (by decide)

/-- The five words of a record (30_encoding.md R78 to R80). -/
def Record.words (r : Record) : Rec :=
  match r with
  | .start s => ⟨recHeader r.opc false 0#7, s, 0, 0, 0⟩
  | .error s e => ⟨recHeader r.opc true 0#7, s, e, 0, 0⟩
  | .disable s => ⟨recHeader r.opc false 0#7, s, 0, 0, 0⟩
  | .result s e o i w => ⟨recHeader r.opc false w, s, e, o, i⟩
  | .marker s _ => ⟨recHeader r.opc false 0#7, s, 0, 0, 0⟩

/-- A reader of the stream: the record five words stand for, or a refusal when the `OPC` is
reserved, a reserved bit or an unused field is not 0, `ERR` does not go with the type, or a
`RESULT`'s width is not 1 to 64 (30_encoding.md R79, R80, R84). -/
def Rec.read (x : Rec) : Option Record :=
  let opc := x.w0.extractLsb' 0 8
  let err := x.w0.getLsbD 8
  let width := x.w0.extractLsb' 16 7
  let bare := x.w2 == 0 && x.w3 == 0 && x.w4 == 0
  if x.w0 ≠ recHeader opc err width then none else
  if err ≠ (opc == 0xC8#8) then none else
  if opc ≠ 0xD0#8 && width ≠ 0#7 then none else
  match opc.toNat with
  | 0xC4 => if bare then some (.start x.w1) else none
  | 0xC8 => if x.w3 == 0 && x.w4 == 0 then some (.error x.w1 x.w2) else none
  | 0xCC => if bare then some (.disable x.w1) else none
  | 0xD0 => if (Record.result x.w1 x.w2 x.w3 x.w4 width).wf
            then some (.result x.w1 x.w2 x.w3 x.w4 width) else none
  | 0xD4 => if bare then some (.marker x.w1 .up) else none
  | 0xD5 => if bare then some (.marker x.w1 .down) else none
  | 0xD6 => if bare then some (.marker x.w1 .error) else none
  | _ => none

/-- The eight bytes of a word, least significant first (20_memory.md R53). -/
def wordBytes (w : BitVec 64) : List (BitVec 8) :=
  (List.range 8).map fun k => w.extractLsb' (8 * k) 8

/-- A word from its bytes, least significant first. -/
def wordOfBytes (bs : List (BitVec 8)) : BitVec 64 :=
  bs.foldr (fun b acc => (acc <<< 8) ||| b.setWidth 64) 0

/-- The 40 bytes of a record, W0 first (30_encoding.md R78). -/
def Rec.bytes (x : Rec) : List (BitVec 8) :=
  wordBytes x.w0 ++ wordBytes x.w1 ++ wordBytes x.w2 ++ wordBytes x.w3 ++ wordBytes x.w4

/-- A record's words from exactly 40 bytes. -/
def Rec.ofBytes (bs : List (BitVec 8)) : Option Rec :=
  if bs.length = 40 then
    some ⟨wordOfBytes (bs.take 8), wordOfBytes ((bs.drop 8).take 8),
      wordOfBytes ((bs.drop 16).take 8), wordOfBytes ((bs.drop 24).take 8),
      wordOfBytes (bs.drop 32)⟩
  else none

/-! ## The trace text of 30_encoding.md R86 -/

/-- A marker kind's name in a trace. -/
def MarkerKind.text : MarkerKind → String
  | .up => "UP"
  | .down => "DOWN"
  | .error => "ERROR"

/-- A record's line in a written stream, numbers in decimal (30_encoding.md R86). -/
def Record.text : Record → String
  | .start s => "START " ++ toString s.toNat
  | .error s e => "ERROR " ++ toString s.toNat ++ ", " ++ toString e.toNat
  | .disable s => "DISABLE " ++ toString s.toNat
  | .result s e o i w =>
      "RESULT " ++ toString s.toNat ++ ", " ++ toString e.toNat ++ ", " ++ toString o.toNat ++ ", "
        ++ toString i.toNat ++ ", " ++ toString w.toNat
  | .marker s k => "MARKER " ++ toString s.toNat ++ ", " ++ k.text

/-! ## The host's questions -/

/-- The code word of a table row's bits, `bits` its low byte and `opnd` what stands above. The
three formats share the numbers 0 to 0x1F, so one number may be two or three rows: an 8-bit word is
read as an `OPC`, and only where that is reserved as a `PROC` id, and only where that is reserved
as an `HA` code (log entry 4); a word of fewer bits is no `OPC`. A 40-bit word is an `HA` byte with its 32 data bits above it. -/
def tableCode (nbits w : Nat) : Code :=
  let bits := BitVec.ofNat 8 w
  let opnd := BitVec.ofNat 32 (w / 256)
  if nbits = 40 then ⟨.ha, bits, opnd⟩
  else if 8 ≤ nbits ∧ (decode ⟨.opc, bits, opnd⟩).isSome then ⟨.opc, bits, opnd⟩
  else if (decode ⟨.proc, bits, opnd⟩).isSome then ⟨.proc, bits, opnd⟩
  else ⟨.ha, bits, opnd⟩

/-- The instruction the decoder reads from a table row's bits. -/
def decodeTableWord (nbits w : Nat) : Option Instr := decode (tableCode nbits w)

end Sys2Proof
end

