-- ==== Sys2Proof/Machine/State.lean ====
section
/-! DEFINITION. The state of SPD-CORE as plain data (10_state.md R20), its environment (R37) held
beside it, the reasons a step may stop, and the state after a hardware reset (R38, R186). -/

namespace Sys2Proof.Machine

open Sys2Proof

/-! ## The environment's data -/

/-- A channel's waveform: the level at sample 0 and the transition positions (20_memory.md R47). -/
structure Waveform where
  init  : Level
  edges : List Sample
  deriving DecidableEq, Repr

/-- One thing for each channel. -/
structure PerChannel (α : Type) where
  clk  : α
  dout : α
  din  : α
  en   : α
  deriving DecidableEq, Repr

/-- The capture the cursor provider presents: its length `L` and a waveform for each channel
(20_memory.md R48). -/
structure Capture where
  len  : Nat
  wave : PerChannel Waveform
  deriving DecidableEq, Repr

/-- The size of a host access (20_memory.md R54). -/
inductive AccessSize where
  | byte | half | word
  deriving DecidableEq, Repr

/-- A host access at an offset of the host register space (20_memory.md R46, 30_encoding.md R88). -/
structure HostAccess where
  write  : Bool
  size   : AccessSize
  offset : BitVec 4
  data   : Word
  deriving DecidableEq, Repr

/-- What happens next, as the environment's schedule gives it: a decoder step, or an input that
lands between two decoder steps (00_scope.md R10, R13). -/
inductive Input where
  /-- the decoder takes its next step -/
  | decoder
  /-- a host access at the block's own port (46_host_interface.md) -/
  | host (a : HostAccess)
  /-- a host access at a platform address (20_memory.md R56) -/
  | bus (addr : Nat) (write : Bool) (size : AccessSize) (data : Word)
  /-- data arrives: the horizon of a channel grows to `h` (20_memory.md R49) -/
  | grow (c : Channel) (h : Nat)
  /-- the cursor provider presents a capture, with the samples available at once (60_exceptions.md R170) -/
  | present (cap : Capture) (hz : PerChannel Nat)
  /-- `RST` (70_reset_and_hazards.md R186) -/
  | rst
  deriving DecidableEq, Repr

/-! ## The block's state -/

/-- A 64-bit working register and whether this run has written it: a read before the first write
in the run is an internal fault (10_state.md R29, 60_exceptions.md R162). -/
structure WorkReg where
  val     : Sample
  written : Bool
  deriving DecidableEq, Repr

/-- A bit accumulator: its target register `V` and its remaining-bit counter `R` (10_state.md R32). -/
structure Accumulator where
  v : BitVec 64
  r : BitVec 7
  deriving DecidableEq, Repr

/-- `STATUS.STATE` (30_encoding.md R83). -/
inductive RunState where
  | idle | running | waiting | doneEod | doneCancel | rejected | fault
  deriving DecidableEq, Repr

/-- `STATUS.CAUSE` (30_encoding.md R82). -/
inductive Cause where
  | none | polarityMismatch | prematureDisable | endOfData | cancelled | configRejected
  | internalFault | transactionEnd
  deriving DecidableEq, Repr

/-- The machine. `CTRL` holds nothing (every read returns 0, R70) and `STATUS` is a view of
`runState`, `cp`, `cause`, `op` and `ctlp` (R36); `MBN` is the length of `mb` (R33). -/
structure State where
  /-- `CFG`, reserved bits 0 (R35) -/
  cfg : Word
  /-- `CFGL`, the configuration of the run (R21) -/
  cfgl : Word
  /-- `MDIR` (R22) -/
  mdir : BitVec 2
  /-- `CS` (R23) -/
  cs : WorkReg
  /-- `FS` (R24) -/
  fs : WorkReg
  /-- `DS` (R24) -/
  ds : WorkReg
  /-- `ES` (R25) -/
  es : WorkReg
  /-- `RS` (R26) -/
  rs : WorkReg
  /-- `RN` (R26) -/
  rn : WorkReg
  /-- `NR` (R27) -/
  nr : Bool
  /-- `RT` (R27) -/
  rt : Bool
  /-- `CP` (R27) -/
  cp : Bool
  /-- `I` (R28) -/
  i : BitVec 7
  /-- `P_CLK`, `P_DOUT`, `P_DIN`, `P_EN` (R31) -/
  pos : PerChannel Sample
  /-- `V_DOUT`, `R_DOUT` (R32) -/
  accDout : Accumulator
  /-- `V_DIN`, `R_DIN` (R32) -/
  accDin : Accumulator
  /-- the entries of `MB` in use, entry 0 first (R33) -/
  mb : List Sample
  /-- `CTLP`, top first (R30) -/
  ctlp : List Point
  /-- `STATUS.STATE` (R36) -/
  runState : RunState
  /-- `STATUS.CAUSE` (R36) -/
  cause : Cause
  /-- `STATUS.OP` (R36) -/
  op : BitVec 8
  /-- the model's own: the truth value or level bit the last cursor query answered (log entry 5) -/
  ansBit : Bool
  /-- the model's own: the sample position the last cursor query answered (log entry 5) -/
  ansPos : Sample
  /-- the model's own: the index `k` of the loop at `GW.18` (log entry 7) -/
  k : BitVec 7
  /-- the model's own: the operand `emit` of the `RACE_CHECK` in progress (log entry 7) -/
  raceEmit : Bool
  /-- the host port: the value the last host read returned (log entry 11) -/
  hostData : Word
  /-- the host port: whether the last host access was signalled as an error (log entry 14) -/
  hostErr : Bool
  /-- the capture presented at the input port (R37) -/
  cap : Capture
  /-- the horizon `H_c` of each channel (R37) -/
  hz : PerChannel Nat
  /-- the records the event sink has received, first emitted first (R37) -/
  sink : List Record
  /-- the environment's schedule, next first; when it is empty the decoder steps (log entry 1) -/
  env : List Input
  deriving DecidableEq, Repr

/-! ## How a step may stop -/

/-- Reasons the machine stops. -/
inductive Fault where
  /-- Raised by the decoder's step when a run is in progress and `CTLP` is empty, so that there is
  no step to take (10_state.md R30: `CTLP` is empty only between runs). No run reaches it. Safe:
  the model stops where the spec gives nothing. -/
  | noControlPoint
  deriving DecidableEq, Repr

/-- Reasons a step has no meaning. -/
inductive Refusal where
  /-- Raised by `exec` for an instruction that has no meaning yet. Safe. -/
  | notModelled (mnemonic : String)
  /-- Raised by the decoder's step when the code at the control point is reserved (30_encoding.md
  R84). No run reaches it. Safe. -/
  | reservedCode (c : Code)
  /-- Raised by the environment when a capture is presented that no capture of 20_memory.md R47 to
  R49 is: a length outside 1 to 2^64 or a transition list out of order or range. Safe. -/
  | malformedCapture
  /-- Raised by the environment when a capture is presented during a run
  (70_reset_and_hazards.md R188: "The capture must not change during the run"). Safe. -/
  | captureChangedDuringRun
  deriving DecidableEq, Repr

/-! ## Reset -/

/-- The same thing for every channel. -/
def PerChannel.all {α : Type} (a : α) : PerChannel α := ⟨a, a, a, a⟩

/-- A working register no rule of the run has written: value 0 (10_state.md R38). -/
def WorkReg.unwritten : WorkReg := ⟨0#64, false⟩

/-- An accumulator at 0 (10_state.md R38). -/
def Accumulator.zero : Accumulator := ⟨0#64, 0#7⟩

/-- The shortest capture: one sample, every channel Low. It stands at the input port until a
capture is presented (log entry 9). -/
def Capture.shortest : Capture := ⟨1, .all ⟨false, []⟩⟩

/-- The machine right after a hardware reset (10_state.md R38, 70_reset_and_hazards.md R186), with
an environment that has presented, received and scheduled nothing. -/
def State.reset : State where
  cfg := 0x00007008#32
  cfgl := 0x00007008#32
  mdir := 0#2
  cs := .unwritten
  fs := .unwritten
  ds := .unwritten
  es := .unwritten
  rs := .unwritten
  rn := .unwritten
  nr := false
  rt := false
  cp := false
  i := 0#7
  pos := .all 0#64
  accDout := .zero
  accDin := .zero
  mb := []
  ctlp := []
  runState := .idle
  cause := .none
  op := 0x00#8
  ansBit := false
  ansPos := 0#64
  k := 0#7
  raceEmit := false
  hostData := 0#32
  hostErr := false
  cap := .shortest
  hz := .all 1
  sink := []
  env := []

end Sys2Proof.Machine
end

