-- ==== Sys2Proof/Machine/Operands.lean ====
section
/-! DEFINITION. What an operation reads and writes by name: the fields of a configuration word, the
presence of a channel, one entry of a per-channel group, the working registers and the
accumulators. -/

namespace Sys2Proof.Machine

open Sys2Proof

/-! ## One entry per channel -/

/-- The entry of channel `c`. -/
def PerChannel.get {α : Type} (q : PerChannel α) : Channel → α
  | .clk => q.clk
  | .dout => q.dout
  | .din => q.din
  | .en => q.en

/-- The group with the entry of channel `c` replaced. -/
def PerChannel.set {α : Type} (q : PerChannel α) (c : Channel) (a : α) : PerChannel α :=
  match c with
  | .clk => { q with clk := a }
  | .dout => { q with dout := a }
  | .din => { q with din := a }
  | .en => { q with en := a }

/-! ## The fields of a configuration word (30_encoding.md R68) -/

/-- Shift order (00_scope.md R8). -/
inductive ShiftOrder where
  | msbFirst | lsbFirst
  deriving DecidableEq, Repr

/-- Data-valid edge (00_scope.md R8). -/
inductive ValidEdge where
  | leading | trailing
  deriving DecidableEq, Repr

/-- `N`, bits [6:0]. -/
def cfgN (w : Word) : BitVec 7 := w.extractLsb' 0 7

/-- `ORDER`, bit [8]. -/
def cfgOrder (w : Word) : ShiftOrder := if w.getLsbD 8 then .lsbFirst else .msbFirst

/-- `CPOL`, bit [9], as the idle level. -/
def cfgCpol (w : Word) : Level := w.getLsbD 9

/-- `EDGE`, bit [10]. -/
def cfgEdge (w : Word) : ValidEdge := if w.getLsbD 10 then .trailing else .leading

/-- `ENPOL`, bit [11], as the active level. -/
def cfgEnpol (w : Word) : Level := w.getLsbD 11

/-- Whether channel `c` is present: `DOUT_P` [12], `DIN_P` [13], `EN_P` [14]; the clock always is
(00_scope.md R8). -/
def cfgPresent (w : Word) : Channel → Bool
  | .clk => true
  | .dout => w.getLsbD 12
  | .din => w.getLsbD 13
  | .en => w.getLsbD 14

/-- A legal configuration: 1 <= `N` <= 64 and a data channel (30_encoding.md R69). -/
def cfgLegal (w : Word) : Bool :=
  decide (1 ≤ (cfgN w).toNat) && decide ((cfgN w).toNat ≤ 64)
    && (cfgPresent w .dout || cfgPresent w .din)

/-- The defined bits of `CFG`, [14:8] and [6:0]; the others read 0 (30_encoding.md R68). -/
def cfgDefined : Word := 0x00007F7F#32

/-- The `CFG` word a written configuration stands for (30_encoding.md R87). -/
def cfgWord (n : BitVec 7) (order : ShiftOrder) (cpol : Level) (edge : ValidEdge) (enpol : Level)
    (dout din en : Bool) : Word :=
  (0#17 ++ BitVec.ofBool en ++ BitVec.ofBool din ++ BitVec.ofBool dout ++ BitVec.ofBool enpol
    ++ BitVec.ofBool (edge == .trailing) ++ BitVec.ofBool cpol
    ++ BitVec.ofBool (order == .lsbFirst) ++ 0#1 ++ n).cast (by decide)

/-! ## What the run reads: every configuration field comes from `CFGL` (10_state.md R21) -/

/-- `N` of the run. -/
def State.N (s : State) : Nat := (cfgN s.cfgl).toNat

/-- `CPOL` of the run. -/
def State.cpol (s : State) : Level := cfgCpol s.cfgl

/-- `EDGE` of the run. -/
def State.edge (s : State) : ValidEdge := cfgEdge s.cfgl

/-- `ENPOL` of the run. -/
def State.enpol (s : State) : Level := cfgEnpol s.cfgl

/-- Whether channel `c` is present in the run. -/
def State.present (s : State) (c : Channel) : Bool := cfgPresent s.cfgl c

/-- Whether a run is in progress: `STATE` is `RUNNING` or `WAITING` (46_host_interface.md R151). -/
def State.inRun (s : State) : Bool := s.runState == .running || s.runState == .waiting

/-- `MBN`, the number of entries of `MB` in use (10_state.md R33). -/
def State.mbn (s : State) : BitVec 7 := BitVec.ofNat 7 s.mb.length

/-! ## The working registers -/

/-- A working register holding a value this run has written. -/
def WorkReg.holding (v : Sample) : WorkReg := ⟨v, true⟩

/-- The working register named `r`. -/
def State.reg (s : State) : SampleReg → WorkReg
  | .cs => s.cs
  | .fs => s.fs
  | .ds => s.ds
  | .es => s.es
  | .rs => s.rs
  | .rn => s.rn

/-- `r <- v`. -/
def State.setReg (s : State) (r : SampleReg) (v : Sample) : State :=
  match r with
  | .cs => { s with cs := .holding v }
  | .fs => { s with fs := .holding v }
  | .ds => { s with ds := .holding v }
  | .es => { s with es := .holding v }
  | .rs => { s with rs := .holding v }
  | .rn => { s with rn := .holding v }

/-- The register a sample operand is read from (30_encoding.md R81). -/
def selReg : SampleSel → SampleReg
  | .cs => .cs
  | .rs => .rs
  | .rn => .rn

/-- The register a `DISABLE` record reads its sample from (45_events.md R143). -/
def disableReg : DisableSel → SampleReg
  | .rs => .rs
  | .ds => .ds

/-! ## The accumulators -/

/-- The accumulator named `a`. -/
def State.acc (s : State) : AccSel → Accumulator
  | .dout => s.accDout
  | .din => s.accDin

/-- The state with accumulator `a` replaced. -/
def State.setAcc (s : State) (a : AccSel) (x : Accumulator) : State :=
  match a with
  | .dout => { s with accDout := x }
  | .din => { s with accDin := x }

end Sys2Proof.Machine
end

