-- ==== Sys2Proof/Machine/Flags.lean ====
section
/-! DEFINITION. What is computed of flags, codes and levels: the level of a waveform, the marker
direction, the status word and the codes it is made of. The block has no arithmetic flags
(41_accumulator.md R108). -/

namespace Sys2Proof.Machine

open Sys2Proof

/-- The level of a waveform at sample `t`: the level at 0, changed by each transition at or before
`t` (20_memory.md R47). -/
def Waveform.levelAt (w : Waveform) (t : Sample) : Level :=
  xor w.init (w.edges.countP (fun e => decide (e ≤ t)) % 2 == 1)

/-- `Cur.level(c)`'s answer: the level of the waveform of `c` at `P_c` (10_state.md R31). -/
def State.levelOf (s : State) (c : Channel) : Level := (s.cap.wave.get c).levelAt (s.pos.get c)

/-- The marker direction, `CPOL ^ EDGE`: 0 is `UP`, 1 is `DOWN` (42_resync.md R110, R111). -/
def markerDirection (w : Word) : BitVec 2 :=
  (BitVec.ofBool (xor (cfgCpol w) (cfgEdge w == .trailing))).setWidth 2

/-- `STATUS.STATE` codes (30_encoding.md R83). -/
def RunState.code : RunState → BitVec 3
  | .idle => 0
  | .running => 1
  | .waiting => 2
  | .doneEod => 3
  | .doneCancel => 4
  | .rejected => 5
  | .fault => 6

/-- `STATUS.CAUSE` codes (30_encoding.md R82). -/
def Cause.code : Cause → BitVec 4
  | .none => 0
  | .polarityMismatch => 1
  | .prematureDisable => 2
  | .endOfData => 3
  | .cancelled => 4
  | .configRejected => 5
  | .internalFault => 6
  | .transactionEnd => 7

/-- The `PROC` id of the procedure a label belongs to (30_encoding.md R75): `NEXT_ACTIVE_EDGE`'s lines
are its own wherever they stand. -/
def labelProc : Label → BitVec 5
  | .run1 | .run2 | .run3 | .run4 => 1
  | .su1 => 2
  | .rs1 | .rs2 | .rs3 | .rs4 | .rs5 | .rs6 | .rs7 | .rs8 | .rs9 => 3
  | .ae1 | .ae2 | .ae3 | .ae4 => 4
  | .na1 | .na2 | .na3 | .ae2n1 | .ae2n2 | .ae2n3 => 5
  | .rc1 | .rc2 | .rc3 | .rc4 | .rc5 | .rc6 | .rc7 | .rc8 | .rc9 | .rc10 => 6
  | .gw1 | .gw2 | .gw3 | .gw4 | .gw5 | .gw6 | .gw7 | .gw8 | .gw9 | .gw10 | .gw11 | .gw12 | .gw13
  | .gw14 | .gw15 | .gw16 | .gw17 | .gw4next | .gw18 | .gw19 | .gw20
  | .gwRet => 7
  | .sd1 | .sd2 | .sd3 | .sd4 | .sd5 | .sd6 => 8

/-- `STATUS.PROC`: the id of the innermost procedure on `CTLP`, 0 when there is none (10_state.md
R36). -/
def State.proc (s : State) : BitVec 5 :=
  match s.ctlp with
  | .line l :: _ => labelProc l
  | _ => 0

/-- The word a read of `STATUS` returns, `PROC ++ OP ++ CAUSE ++ CP ++ STATE` (30_encoding.md R71,
46_host_interface.md R153). -/
def State.statusWord (s : State) : Word :=
  (s.proc ++ s.op ++ s.cause.code ++ BitVec.ofBool s.cp ++ s.runState.code).setWidth 32

/-- What the host's `WAITDONE` waits for in the status word it reads: `STATE` 3, 4, 5 or 6
(30_encoding.md R86). -/
def waitDone (status : Word) : Bool :=
  decide (3 ≤ (status.extractLsb' 0 3).toNat) && decide ((status.extractLsb' 0 3).toNat ≤ 6)

end Sys2Proof.Machine
end

