-- ==== Sys2Proof/Machine/Ops.lean ====
section
/-! DEFINITION. The shared operations: performing, waiting and ending (60_exceptions.md), the
control stack (10_state.md R30), the cursor (40_cursor.md), accumulator (41_accumulator.md) and
emission (45_events.md) operations, the host accesses (46_host_interface.md) and the inputs of the
environment. -/

namespace Sys2Proof.Machine

open Sys2Proof

/-- The outcome of a step of this machine. -/
abbrev Out := Host.Outcome State Fault Refusal

/-! ## Causes: how a run ends and how a recoverable cause is recorded (60_exceptions.md) -/

/-- `end`: the run stops, `STATE` and `CAUSE` say how and `CTLP` is emptied; nothing else is saved
or changed (60_exceptions.md R160, R161, R162, R166). The one shared operation of every end. -/
def State.endRun (s : State) (st : RunState) (c : Cause) : State :=
  { s with runState := st, cause := c, ctlp := [] }

/-- `INTERNAL_FAULT` at an operation: `OP` keeps the offending operation's code (60_exceptions.md
R162). At a line that performs no operation there is none: the callers pass the code `OP` holds (log
entry 27). -/
def State.internalFault (s : State) (code : BitVec 8) : State :=
  { s with op := code }.endRun .fault .internalFault

/-- A recoverable cause is recorded in `STATUS.CAUSE`; the pseudocode line goes on
(60_exceptions.md R166, R168). -/
def State.record (s : State) (c : Cause) : State := { s with cause := c }

/-! ## Performing an operation -/

/-- A decoder that waited and now proceeds is running again; nothing else changes. -/
def RunState.resumed : RunState → RunState
  | .waiting => .running
  | x => x

/-- The operation `code` is performed: `STATUS.OP` names it (10_state.md R36). -/
def State.performing (s : State) (code : BitVec 8) : State :=
  { s with op := code, runState := s.runState.resumed }

/-- The operation `code` waits: no effect but that `STATE` reads `WAITING` and `OP` names the
operation (20_memory.md R52, 10_state.md R36). -/
def State.waitAt (s : State) (code : BitVec 8) : State :=
  { s with op := code, runState := .waiting }

/-- An operation on channel `c` needs what is not available: it waits while the channel is not
complete and ends the run once it is (20_memory.md R52). -/
def State.needsData (s : State) (c : Channel) (code : BitVec 8) : State :=
  if s.hz.get c = s.cap.len then { s with op := code }.endRun .doneEod .endOfData
  else s.waitAt code

/-- An operation on channel `c`: one on an absent channel is an internal fault (40_cursor.md
R103). -/
def onChannel (c : Channel) (code : BitVec 8) (s : State) (f : State → State) : Out :=
  .next (if s.present c then f s else s.internalFault code)

/-- The value of register `r`, or an internal fault where this run has not written it
(60_exceptions.md R162). -/
def withReg (r : SampleReg) (code : BitVec 8) (s : State) (f : Sample → State) : State :=
  if (s.reg r).written then f (s.reg r).val else s.internalFault code

/-! ## Cursor operations (40_cursor.md) -/

/-- The list `A` of 40_cursor.md R98 and R100: the available transitions of `c` after `P_c`. -/
def State.ahead (s : State) (c : Channel) : List Sample :=
  (s.cap.wave.get c).edges.filter fun t =>
    decide (s.pos.get c < t) && decide (t.toNat < s.hz.get c)

/-- The least of a list. -/
def earliest : List Sample → Option Sample
  | [] => none
  | t :: ts =>
    match earliest ts with
    | none => some t
    | some u => some (if t ≤ u then t else u)

/-- `Cur.level(c)` (R96). -/
def levelOp (c : Channel) (code : BitVec 8) (s : State) : Out :=
  onChannel c code s fun s => { s.performing code with ansBit := s.levelOf c }

/-- `Cur.pos(c)` (R97). -/
def posOp (c : Channel) (code : BitVec 8) (s : State) : Out :=
  onChannel c code s fun s => { s.performing code with ansPos := s.pos.get c }

/-- `Cur.advEdge(c)` (R98). -/
def advEdgeOp (c : Channel) (code : BitVec 8) (s : State) : Out :=
  onChannel c code s fun s =>
    match earliest (s.ahead c) with
    | some t => { s.performing code with pos := s.pos.set c t }
    | none => s.needsData c code

/-- `Cur.advTo(c, s)` (R99). -/
def advToOp (c : Channel) (r : SampleReg) (code : BitVec 8) (s : State) : Out :=
  onChannel c code s fun s =>
    withReg r code s fun t =>
      if t ≤ s.pos.get c then s.performing code
      else if t.toNat < s.hz.get c then { s.performing code with pos := s.pos.set c t }
      else s.needsData c code

/-- `Cur.nextEdge(c)` (R100). -/
def nextEdgeOp (c : Channel) (code : BitVec 8) (s : State) : Out :=
  onChannel c code s fun s =>
    match earliest (s.ahead c) with
    | some t => { s.performing code with ansPos := t }
    | none => s.needsData c code

/-- Whether the waveform of `c` has a transition after `P_c` and at or before `t` (R101). -/
def State.crosses (s : State) (c : Channel) (t : Sample) : Bool :=
  (s.cap.wave.get c).edges.any fun e => decide (s.pos.get c < e) && decide (e ≤ t)

/-- `Cur.wouldCross(c, s)` (R101). -/
def wouldCrossOp (c : Channel) (r : SampleReg) (code : BitVec 8) (s : State) : Out :=
  onChannel c code s fun s =>
    withReg r code s fun t =>
      if t ≤ s.pos.get c then { s.performing code with ansBit := false }
      else if t.toNat < s.hz.get c then { s.performing code with ansBit := s.crosses c t }
      else s.needsData c code

/-- `Cur.hasMore(c)` (R102): read from the horizon as it now stands (70_reset_and_hazards.md
R194). -/
def hasMoreOp (c : Channel) (code : BitVec 8) (s : State) : Out :=
  onChannel c code s fun s => { s.performing code with ansBit := !(s.ahead c).isEmpty }

/-! ## Accumulator operations (41_accumulator.md) -/

/-- `AccReset(a)` (R105). -/
def accResetOp (a : AccSel) (code : BitVec 8) (s : State) : Out :=
  .next ((s.performing code).setAcc a ⟨0#64, cfgN s.cfgl⟩)

/-- The position `k` a bit is inserted at (R106): from the top down, or from the bottom up. -/
def insertAt (order : ShiftOrder) (n r : Nat) : Nat :=
  match order with
  | .msbFirst => r - 1
  | .lsbFirst => n - r

/-- `V_a` and `R_a` after one bit (R106). -/
def Accumulator.addBit (x : Accumulator) (order : ShiftOrder) (n : Nat) (b : Level) : Accumulator :=
  ⟨x.v ||| ((if b then 1#64 else 0#64) <<< insertAt order n x.r.toNat), x.r - 1⟩

/-- `AccAddBit(a, b)` (R106). -/
def accAddBitOp (a : AccSel) (b : Level) (code : BitVec 8) (s : State) : Out :=
  .next (
    if (s.acc a).r = 0#7 then s.internalFault code
    else (s.performing code).setAcc a ((s.acc a).addBit (cfgOrder s.cfgl) s.N b))

/-! ## The poll (44_word_extraction.md R126) -/

/-- `POLL_CANCEL`: ends the run when a cancellation is pending (60_exceptions.md R161). -/
def pollOp (code : BitVec 8) (s : State) : Out :=
  .next (
    if s.cp then { s with op := code }.endRun .doneCancel .cancelled
    else s.performing code)

/-! ## Emission (45_events.md) -/

/-- `emit`: one whole record is appended to the sink; the sink accepts it at once (R140, R147). -/
def State.emit (s : State) (code : BitVec 8) (r : Record) : State :=
  { s.performing code with sink := s.sink ++ [r] }

/-- `emit START(CS)` (R141). -/
def emitStartOp (code : BitVec 8) (s : State) : Out :=
  .next (withReg .cs code s fun t => s.emit code (.start t))

/-- `emit ERROR(ES, CS)` (R142). -/
def emitErrorOp (code : BitVec 8) (s : State) : Out :=
  .next (withReg .es code s fun t => withReg .cs code s fun u => s.emit code (.error t u))

/-- `emit DISABLE(r)` (R143). -/
def emitDisableOp (r : SampleReg) (code : BitVec 8) (s : State) : Out :=
  .next (withReg r code s fun t => s.emit code (.disable t))

/-- `emit RESULT(FS, P_CLK, V_DOUT, V_DIN, N)` (R144). The two samples are those of R144's fields also
where they are equal, with `N` = 1, `EDGE` = `Leading` and `NR`, although R144 says `s < e` (log
entry 28). -/
def emitResultOp (code : BitVec 8) (s : State) : Out :=
  .next (withReg .fs code s fun t =>
    s.emit code (.result t s.pos.clk s.accDout.v s.accDin.v (cfgN s.cfgl)))

/-- `emit MARKER(MB[k], UP or DOWN)` (R145): the loop of `GW.18` goes on to the next entry. An
entry not in use holds no value: an internal fault (10_state.md R33, 93_implementation_defined.md
U11). -/
def emitBitMarkerOp (kind : MarkerKind) (code : BitVec 8) (s : State) : Out :=
  .next (
    match s.mb[s.k.toNat]? with
    | some t => { s.emit code (.marker t kind) with k := s.k + 1 }
    | none => s.internalFault code)

/-- `emit MARKER(CS, ERROR)` (R145). -/
def emitErrorMarkerOp (code : BitVec 8) (s : State) : Out :=
  .next (withReg .cs code s fun t => s.emit code (.marker t .error))

/-! ## The control stack (10_state.md R30) -/

/-- `goto L`: the top label becomes `L`. -/
def State.goto (s : State) (l : Label) : State := { s with ctlp := .line l :: s.ctlp.tail }

/-- `return`: the top label is popped. -/
def State.ret (s : State) : State := { s with ctlp := s.ctlp.tail }

/-- Enter a procedure at label `l`: the label is pushed; a fifth label is an internal fault
(60_exceptions.md R162). A `call` is no operation and has no code, so that `OP` then keeps the code of
the last operation is the model's choice (log entry 27). -/
def State.enter (s : State) (l : Label) : State :=
  if s.ctlp.length < 4 then { s with ctlp := .line l :: s.ctlp } else s.internalFault s.op

/-- `call P`: the top label becomes the label that follows the call, then `P` is entered. -/
def State.call (s : State) (follows entry : Label) : State := (s.goto follows).enter entry

/-- Enter `RACE_CHECK` with its operand `emit` (43_race_detection.md R120; log entry 7). -/
def State.enterRace (s : State) (emit : Bool) : State := { s with raceEmit := emit }.enter .rc1

/-! ## Host accesses (46_host_interface.md) -/

/-- A host read returns `v`; it changes nothing of the block (R153). -/
def hostReturns (v : Word) (s : State) : Out := .next { s with hostData := v, hostErr := false }

/-- A host access that returns no data has been accepted. -/
def State.accepted (s : State) : State := { s with hostErr := false }

/-- `CFG` write: the defined bits are taken, the reserved ones ignored (R150). -/
def cfgWrite (v : Word) (s : State) : Out := .next { s.accepted with cfg := v &&& cfgDefined }

/-- Where a run starts, each cursor of a present channel is at sample 0 (10_state.md R38). -/
def startPositions (w : Word) (p : PerChannel Sample) : PerChannel Sample where
  clk := 0#64
  dout := if cfgPresent w .dout then 0#64 else p.dout
  din := if cfgPresent w .din then 0#64 else p.din
  en := if cfgPresent w .en then 0#64 else p.en

/-- The state when a run starts (46_host_interface.md R151, 10_state.md R38). -/
def State.startRun (s : State) : State :=
  { s with
    cfgl := s.cfg
    mdir := 0#2
    cs := .unwritten, fs := .unwritten, ds := .unwritten
    es := .unwritten, rs := .unwritten, rn := .unwritten
    nr := false, rt := false, cp := false
    i := 0#7
    pos := startPositions s.cfg s.pos
    accDout := .zero, accDin := .zero
    mb := []
    ctlp := [.line .run1]
    runState := .running
    cause := .none
    op := 0x00#8
    ansBit := false, ansPos := 0#64
    k := 0#7
    raceEmit := false }

/-- `GO` (R151): ignored during a run, starts a run with a legal `CFG`, refuses an illegal one
(60_exceptions.md R156). -/
def State.goBit (s : State) : State :=
  if s.inRun then s
  else if cfgLegal s.cfg then s.startRun
  else { s with runState := .rejected, cause := .configRejected }

/-- `CANCEL` (R152): sets `CP` during a run, and does nothing else. -/
def State.cancelBit (s : State) : State := if s.inRun then { s with cp := true } else s

/-- `CTRL` write: bit [0] is `GO`, bit [1] is `CANCEL`, `GO` first; the other bits are ignored
(R151, R152, R154). -/
def ctrlWriteOp (v : Word) (s : State) : Out :=
  let s := if v.getLsbD 0 then s.goBit else s
  let s := if v.getLsbD 1 then s.cancelBit else s
  .next s.accepted

/-- A write that is ignored (R154). -/
def ignoredWrite (s : State) : Out := .next s.accepted

/-- A refused access (R155): no state changes, a refused read returns 0, and whether the bus
signals an error is the platform's. -/
def refusedAccess (write : Bool) (s : State) : Out :=
  .next { s with
    hostData := if write then s.hostData else 0#32
    hostErr := Config.hostErrSignal }

/-! ## The environment's inputs -/

/-- A waveform's canonical form: the transitions strictly rise and lie in 1 to `L - 1`
(20_memory.md R47). -/
def Waveform.wf (len : Nat) (w : Waveform) : Bool :=
  decide (w.edges.Pairwise (· < ·))
    && w.edges.all fun t => decide (1 ≤ t.toNat) && decide (t.toNat < len)

/-- A capture's canonical form (20_memory.md R48). -/
def Capture.wf (c : Capture) : Bool :=
  decide (1 ≤ c.len) && decide (c.len ≤ 2 ^ 64)
    && c.wave.clk.wf c.len && c.wave.dout.wf c.len && c.wave.din.wf c.len && c.wave.en.wf c.len

/-- A horizon grows to `h`, never down and never past `L` (20_memory.md R49; log entry 10). -/
def growTo (len old h : Nat) : Nat := max old (min h len)

/-- Data arrives on channel `c` (20_memory.md R49). -/
def growInput (c : Channel) (h : Nat) (s : State) : Out :=
  .next { s with hz := s.hz.set c (growTo s.cap.len (s.hz.get c) h) }

/-- The cursor provider presents a capture and what of it is available at once, at least one
sample of each channel (20_memory.md R49, 60_exceptions.md R170). -/
def presentInput (cap : Capture) (hz : PerChannel Nat) (s : State) : Out :=
  if s.inRun then .refused .captureChangedDuringRun
  else if cap.wf then
    .next { s with
      cap := cap
      hz := ⟨growTo cap.len 1 hz.clk, growTo cap.len 1 hz.dout, growTo cap.len 1 hz.din,
             growTo cap.len 1 hz.en⟩ }
  else .refused .malformedCapture

/-- `RST` (70_reset_and_hazards.md R186): every piece of the block's state takes its reset value;
the capture, the horizons, the records the sink holds and the schedule are the environment's. -/
def rstInput (s : State) : Out :=
  .next { State.reset with cap := s.cap, hz := s.hz, sink := s.sink, env := s.env }

end Sys2Proof.Machine
end

