-- ==== Sys2Proof/Machine/Accumulator.lean ====
section
/-! DEFINITION. The accumulator operations, one meaning per row of the opcode table (41_accumulator.md R105,
R106; codes 30_encoding.md R74). -/

namespace Sys2Proof.Machine

open Sys2Proof

/-- `ACC.RESET DOUT`, code 0x49 (R105). -/
def execAccResetDout (s : State) : Out := accResetOp .dout 0x49#8 s

/-- `ACC.RESET DIN`, code 0x4A (R105). -/
def execAccResetDin (s : State) : Out := accResetOp .din 0x4A#8 s

/-- `ACC.ADDBIT DOUT, 0`, code 0x51 (R106). -/
def execAccAddBitDout0 (s : State) : Out := accAddBitOp .dout false 0x51#8 s

/-- `ACC.ADDBIT DOUT, 1`, code 0x55 (R106). -/
def execAccAddBitDout1 (s : State) : Out := accAddBitOp .dout true 0x55#8 s

/-- `ACC.ADDBIT DIN, 0`, code 0x52 (R106). -/
def execAccAddBitDin0 (s : State) : Out := accAddBitOp .din false 0x52#8 s

/-- `ACC.ADDBIT DIN, 1`, code 0x56 (R106). -/
def execAccAddBitDin1 (s : State) : Out := accAddBitOp .din true 0x56#8 s

end Sys2Proof.Machine
end

