-- ==== Sys2Proof/Machine/Control.lean ====
section
/-! DEFINITION. The control operation (44_word_extraction.md R126; code 30_encoding.md R77). -/

namespace Sys2Proof.Machine

open Sys2Proof

/-- `POLL`, code 0x81 (R126). -/
def execPoll (s : State) : Out := pollOp 0x81#8 s

end Sys2Proof.Machine
end

