-- ==== Sys2Proof/Machine/Cursor.lean ====
section
/-! DEFINITION. The cursor operations, one meaning per row of the opcode table (40_cursor.md R96 to R102;
codes 30_encoding.md R73). -/

namespace Sys2Proof.Machine

open Sys2Proof

/-- `CUR.LEVEL CLK`, code 0x08 (R96). -/
def execCurLevelClk (s : State) : Out := levelOp .clk 0x08#8 s

/-- `CUR.LEVEL DOUT`, code 0x09 (R96). -/
def execCurLevelDout (s : State) : Out := levelOp .dout 0x09#8 s

/-- `CUR.LEVEL DIN`, code 0x0A (R96). -/
def execCurLevelDin (s : State) : Out := levelOp .din 0x0A#8 s

/-- `CUR.LEVEL EN`, code 0x0B (R96). -/
def execCurLevelEn (s : State) : Out := levelOp .en 0x0B#8 s

/-- `CUR.POS CLK`, code 0x10 (R97). -/
def execCurPosClk (s : State) : Out := posOp .clk 0x10#8 s

/-- `CUR.POS DOUT`, code 0x11 (R97). -/
def execCurPosDout (s : State) : Out := posOp .dout 0x11#8 s

/-- `CUR.POS DIN`, code 0x12 (R97). -/
def execCurPosDin (s : State) : Out := posOp .din 0x12#8 s

/-- `CUR.POS EN`, code 0x13 (R97). -/
def execCurPosEn (s : State) : Out := posOp .en 0x13#8 s

/-- `CUR.ADVEDGE CLK`, code 0x18 (R98). -/
def execCurAdvEdgeClk (s : State) : Out := advEdgeOp .clk 0x18#8 s

/-- `CUR.ADVEDGE DOUT`, code 0x19 (R98). -/
def execCurAdvEdgeDout (s : State) : Out := advEdgeOp .dout 0x19#8 s

/-- `CUR.ADVEDGE DIN`, code 0x1A (R98). -/
def execCurAdvEdgeDin (s : State) : Out := advEdgeOp .din 0x1A#8 s

/-- `CUR.ADVEDGE EN`, code 0x1B (R98). -/
def execCurAdvEdgeEn (s : State) : Out := advEdgeOp .en 0x1B#8 s

/-- `CUR.ADVTO CLK`, code 0x20 (R99). -/
def execCurAdvToClk (src : SampleSel) (s : State) : Out := advToOp .clk (selReg src) 0x20#8 s

/-- `CUR.ADVTO DOUT`, code 0x21 (R99). -/
def execCurAdvToDout (src : SampleSel) (s : State) : Out := advToOp .dout (selReg src) 0x21#8 s

/-- `CUR.ADVTO DIN`, code 0x22 (R99). -/
def execCurAdvToDin (src : SampleSel) (s : State) : Out := advToOp .din (selReg src) 0x22#8 s

/-- `CUR.ADVTO EN`, code 0x23 (R99). -/
def execCurAdvToEn (src : SampleSel) (s : State) : Out := advToOp .en (selReg src) 0x23#8 s

/-- `CUR.NEXTEDGE CLK`, code 0x28 (R100). -/
def execCurNextEdgeClk (s : State) : Out := nextEdgeOp .clk 0x28#8 s

/-- `CUR.NEXTEDGE DOUT`, code 0x29 (R100). -/
def execCurNextEdgeDout (s : State) : Out := nextEdgeOp .dout 0x29#8 s

/-- `CUR.NEXTEDGE DIN`, code 0x2A (R100). -/
def execCurNextEdgeDin (s : State) : Out := nextEdgeOp .din 0x2A#8 s

/-- `CUR.NEXTEDGE EN`, code 0x2B (R100). -/
def execCurNextEdgeEn (s : State) : Out := nextEdgeOp .en 0x2B#8 s

/-- `CUR.WOULDCROSS CLK`, code 0x30 (R101). -/
def execCurWouldCrossClk (src : SampleSel) (s : State) : Out := wouldCrossOp .clk (selReg src) 0x30#8 s

/-- `CUR.WOULDCROSS DOUT`, code 0x31 (R101). -/
def execCurWouldCrossDout (src : SampleSel) (s : State) : Out := wouldCrossOp .dout (selReg src) 0x31#8 s

/-- `CUR.WOULDCROSS DIN`, code 0x32 (R101). -/
def execCurWouldCrossDin (src : SampleSel) (s : State) : Out := wouldCrossOp .din (selReg src) 0x32#8 s

/-- `CUR.WOULDCROSS EN`, code 0x33 (R101). -/
def execCurWouldCrossEn (src : SampleSel) (s : State) : Out := wouldCrossOp .en (selReg src) 0x33#8 s

/-- `CUR.HASMORE CLK`, code 0x38 (R102). -/
def execCurHasMoreClk (s : State) : Out := hasMoreOp .clk 0x38#8 s

/-- `CUR.HASMORE DOUT`, code 0x39 (R102). -/
def execCurHasMoreDout (s : State) : Out := hasMoreOp .dout 0x39#8 s

/-- `CUR.HASMORE DIN`, code 0x3A (R102). -/
def execCurHasMoreDin (s : State) : Out := hasMoreOp .din 0x3A#8 s

/-- `CUR.HASMORE EN`, code 0x3B (R102). -/
def execCurHasMoreEn (s : State) : Out := hasMoreOp .en 0x3B#8 s

end Sys2Proof.Machine
end

