-- ==== Sys2Proof/Machine/Events.lean ====
section
/-! DEFINITION. The event emissions, one meaning per row of the opcode table (45_events.md R141 to R145; codes
30_encoding.md R76). -/

namespace Sys2Proof.Machine

open Sys2Proof

/-- `EMIT START`, code 0xC4 (R141). -/
def execEmitStart (s : State) : Out := emitStartOp 0xC4#8 s

/-- `EMIT ERROR`, code 0xC8 (R142). -/
def execEmitError (s : State) : Out := emitErrorOp 0xC8#8 s

/-- `EMIT DISABLE`, code 0xCC (R143). -/
def execEmitDisable (src : DisableSel) (s : State) : Out := emitDisableOp (disableReg src) 0xCC#8 s

/-- `EMIT RESULT`, code 0xD0 (R144). -/
def execEmitResult (s : State) : Out := emitResultOp 0xD0#8 s

/-- `EMIT MARKER UP`, code 0xD4 (R145). -/
def execEmitMarkerUp (s : State) : Out := emitBitMarkerOp .up 0xD4#8 s

/-- `EMIT MARKER DOWN`, code 0xD5 (R145). -/
def execEmitMarkerDown (s : State) : Out := emitBitMarkerOp .down 0xD5#8 s

/-- `EMIT MARKER ERROR`, code 0xD6 (R145). -/
def execEmitMarkerError (s : State) : Out := emitErrorMarkerOp 0xD6#8 s

end Sys2Proof.Machine
end

