-- ==== Sys2Proof/Machine/HostPort.lean ====
section
/-! DEFINITION. The host accesses, one meaning per row of the opcode table (46_host_interface.md R150 to R154;
codes 30_encoding.md R88). -/

namespace Sys2Proof.Machine

open Sys2Proof

/-- `RD CFG`, code 0x00 (R150). -/
def execRdCfg (s : State) : Out := hostReturns (s.cfg &&& cfgDefined) s

/-- `WR CFG`, code 0x10 (R150). -/
def execWrCfg (v : Word) (s : State) : Out := cfgWrite v s

/-- `RD CTRL`, code 0x04 (R154). -/
def execRdCtrl (s : State) : Out := hostReturns 0#32 s

/-- `WR CTRL`, code 0x14 (R151, R152, R154). -/
def execWrCtrl (v : Word) (s : State) : Out := ctrlWriteOp v s

/-- `RD STATUS`, code 0x08 (R153). -/
def execRdStatus (s : State) : Out := hostReturns s.statusWord s

/-- `WR STATUS`, code 0x18 (R154). -/
def execWrStatus (_v : Word) (s : State) : Out := ignoredWrite s

/-- `RD 0xC`, code 0x0C (R154). -/
def execRdRsvd (s : State) : Out := hostReturns 0#32 s

/-- `WR 0xC`, code 0x1C (R154). -/
def execWrRsvd (_v : Word) (s : State) : Out := ignoredWrite s

/-- `GO`, code 0x14 (R151). -/
def execGo (s : State) : Out := ctrlWriteOp 0x1#32 s

/-- `CANCEL`, code 0x14 (R152). -/
def execCancel (s : State) : Out := ctrlWriteOp 0x2#32 s

end Sys2Proof.Machine
end

