-- ==== Sys2Proof/Machine/Procedures.lean ====
section
/-! DEFINITION. The procedures of the Transfer Decoder as instructions: `call P` enters the procedure at its
first label (00_scope.md R12, 10_state.md R30); the decoder's steps then perform its labelled lines,
which are Machine/Lines.lean. Entering never performs an operation, so `STATUS.OP` keeps its value
(30_encoding.md R75: "A procedure is not a step"). -/

namespace Sys2Proof.Machine

open Sys2Proof

/-- `RUN` (44_word_extraction.md R125). -/
def execProcRun (s : State) : Out := .next (s.enter .run1)

/-- `SETUP` (42_resync.md R110). -/
def execProcSetup (s : State) : Out := .next (s.enter .su1)

/-- `RESYNC` (42_resync.md R115). -/
def execProcResync (s : State) : Out := .next (s.enter .rs1)

/-- `ADV_ACTIVE_ENABLE` (42_resync.md R113). -/
def execProcAdvActiveEnable (s : State) : Out := .next (s.enter .ae1)

/-- `NEXT_ACTIVE_EDGE` (42_resync.md R112). -/
def execProcNextActiveEdge (s : State) : Out := .next (s.enter .na1)

/-- `RACE_CHECK(emit)`, id 6: the operand is kept for `RC.10` (43_race_detection.md R120). -/
def execProcRaceCheck (emit : Bool) (s : State) : Out := .next (s.enterRace emit)

/-- `GET_WORD` (44_word_extraction.md R127). -/
def execProcGetWord (s : State) : Out := .next (s.enter .gw1)

/-- `SAMPLE_DATA` (44_word_extraction.md R129). -/
def execProcSampleData (s : State) : Out := .next (s.enter .sd1)

end Sys2Proof.Machine
end

