-- ==== Sys2Proof/Machine/Dispatch.lean ====
section
/-! DEFINITION. One arm per instruction: the meaning each constructor calls. -/

namespace Sys2Proof.Machine

open Sys2Proof

def exec (i : Instr) (s : State) : Host.Outcome State Fault Refusal :=
  match i with
  | .curLevelClk => Sys2Proof.Machine.execCurLevelClk s
  | .curLevelDout => Sys2Proof.Machine.execCurLevelDout s
  | .curLevelDin => Sys2Proof.Machine.execCurLevelDin s
  | .curLevelEn => Sys2Proof.Machine.execCurLevelEn s
  | .curPosClk => Sys2Proof.Machine.execCurPosClk s
  | .curPosDout => Sys2Proof.Machine.execCurPosDout s
  | .curPosDin => Sys2Proof.Machine.execCurPosDin s
  | .curPosEn => Sys2Proof.Machine.execCurPosEn s
  | .curAdvEdgeClk => Sys2Proof.Machine.execCurAdvEdgeClk s
  | .curAdvEdgeDout => Sys2Proof.Machine.execCurAdvEdgeDout s
  | .curAdvEdgeDin => Sys2Proof.Machine.execCurAdvEdgeDin s
  | .curAdvEdgeEn => Sys2Proof.Machine.execCurAdvEdgeEn s
  | .curAdvToClk src => Sys2Proof.Machine.execCurAdvToClk src s
  | .curAdvToDout src => Sys2Proof.Machine.execCurAdvToDout src s
  | .curAdvToDin src => Sys2Proof.Machine.execCurAdvToDin src s
  | .curAdvToEn src => Sys2Proof.Machine.execCurAdvToEn src s
  | .curNextEdgeClk => Sys2Proof.Machine.execCurNextEdgeClk s
  | .curNextEdgeDout => Sys2Proof.Machine.execCurNextEdgeDout s
  | .curNextEdgeDin => Sys2Proof.Machine.execCurNextEdgeDin s
  | .curNextEdgeEn => Sys2Proof.Machine.execCurNextEdgeEn s
  | .curWouldCrossClk src => Sys2Proof.Machine.execCurWouldCrossClk src s
  | .curWouldCrossDout src => Sys2Proof.Machine.execCurWouldCrossDout src s
  | .curWouldCrossDin src => Sys2Proof.Machine.execCurWouldCrossDin src s
  | .curWouldCrossEn src => Sys2Proof.Machine.execCurWouldCrossEn src s
  | .curHasMoreClk => Sys2Proof.Machine.execCurHasMoreClk s
  | .curHasMoreDout => Sys2Proof.Machine.execCurHasMoreDout s
  | .curHasMoreDin => Sys2Proof.Machine.execCurHasMoreDin s
  | .curHasMoreEn => Sys2Proof.Machine.execCurHasMoreEn s
  | .accResetDout => Sys2Proof.Machine.execAccResetDout s
  | .accResetDin => Sys2Proof.Machine.execAccResetDin s
  | .accAddBitDout0 => Sys2Proof.Machine.execAccAddBitDout0 s
  | .accAddBitDout1 => Sys2Proof.Machine.execAccAddBitDout1 s
  | .accAddBitDin0 => Sys2Proof.Machine.execAccAddBitDin0 s
  | .accAddBitDin1 => Sys2Proof.Machine.execAccAddBitDin1 s
  | .poll => Sys2Proof.Machine.execPoll s
  | .emitStart => Sys2Proof.Machine.execEmitStart s
  | .emitError => Sys2Proof.Machine.execEmitError s
  | .emitDisable src => Sys2Proof.Machine.execEmitDisable src s
  | .emitResult => Sys2Proof.Machine.execEmitResult s
  | .emitMarkerUp => Sys2Proof.Machine.execEmitMarkerUp s
  | .emitMarkerDown => Sys2Proof.Machine.execEmitMarkerDown s
  | .emitMarkerError => Sys2Proof.Machine.execEmitMarkerError s
  | .procRun => Sys2Proof.Machine.execProcRun s
  | .procSetup => Sys2Proof.Machine.execProcSetup s
  | .procResync => Sys2Proof.Machine.execProcResync s
  | .procAdvActiveEnable => Sys2Proof.Machine.execProcAdvActiveEnable s
  | .procNextActiveEdge => Sys2Proof.Machine.execProcNextActiveEdge s
  | .procRaceCheck emit => Sys2Proof.Machine.execProcRaceCheck emit s
  | .procGetWord => Sys2Proof.Machine.execProcGetWord s
  | .procSampleData => Sys2Proof.Machine.execProcSampleData s
  | .rdCfg => Sys2Proof.Machine.execRdCfg s
  | .wrCfg v => Sys2Proof.Machine.execWrCfg v s
  | .rdCtrl => Sys2Proof.Machine.execRdCtrl s
  | .wrCtrl v => Sys2Proof.Machine.execWrCtrl v s
  | .rdStatus => Sys2Proof.Machine.execRdStatus s
  | .wrStatus v => Sys2Proof.Machine.execWrStatus v s
  | .rdRsvd => Sys2Proof.Machine.execRdRsvd s
  | .wrRsvd v => Sys2Proof.Machine.execWrRsvd v s
  | .go => Sys2Proof.Machine.execGo s
  | .cancel => Sys2Proof.Machine.execCancel s

end Sys2Proof.Machine
end

