-- ==== Sys2Proof/Machine/Lines.lean ====
section
/-! DEFINITION. The pseudocode of the Transfer Decoder, one clause per labelled line (42_resync.md R110
to R115, 43_race_detection.md R120, 44_word_extraction.md R125 to R129), and what one decoder step
does with it (00_scope.md R13). -/

namespace Sys2Proof.Machine

open Sys2Proof

/-- What a line does in a state: a line that performs no operation only changes registers and
control; any other performs the operation its code word names and then, if the operation
proceeded, the rest of the line. -/
inductive Line where
  | silent (s : State)
  | operation (c : Code) (rest : State → Out)

/-- The rest of a line goes on only where its operation proceeded: not where it waits (the line is
tried again whole later) and not where it ended the run (00_scope.md R13). -/
def proceed (o : Out) (rest : State → Out) : Out :=
  match o with
  | .next t => if t.runState = .running then rest t else .next t
  | .fault r => .fault r
  | .refused r => .refused r

/-- An operation followed by register writes and one branch. -/
def operate (c : Code) (rest : State → State) : Line := .operation c fun t => .next (rest t)

/-- `x <- Cur.pos(c)` or `x <- Cur.nextEdge(c)`: the position answered is written to `r`. -/
def State.take (s : State) (r : SampleReg) : State := s.setReg r s.ansPos

/-- The bit loop is left: the markers of `GW.18` start at entry 0. -/
def State.toMarkers (s : State) : State := { s with k := 0#7 }.goto .gw18

/-- The bit loop goes to index `i`, or is left when no index remains (`GW.4`). -/
def State.loopAt (s : State) (i : Nat) : State :=
  if i < s.N then { s with i := BitVec.ofNat 7 i }.goto .gw5 else s.toMarkers

/-- `MB[MBN] <- CS; MBN <- MBN + 1` (`SD.6`): a full buffer, or a `CS` this run has not written, is
an internal fault (60_exceptions.md R162). `SD.6` performs no operation whose code the fault could
keep, so that `OP` keeps the code of the last one is the model's choice (log entry 27). -/
def State.noteSample (s : State) : State :=
  if s.mb.length < 64 then withReg .cs s.op s fun t => { s with mb := s.mb ++ [t] }.ret
  else s.internalFault s.op

/-- `AccAddBit(a, Cur.level(c))`, the second operation of `SD.3` and `SD.5`. -/
def addLevel (a : AccSel) (next : Label) (t : State) : Out :=
  proceed (exec (.accAddBit a t.ansBit) t) fun u => .next (u.goto next)

/-- `call NEXT_ACTIVE_EDGE` at `AE.2` (42_resync.md R113): a call like any other where there is room
for its label; where four labels stand (a `RESYNC` that `GET_WORD` called), the callee stands in the
place of `ADV_ACTIVE_ENABLE`'s label and gives it back at `AE.3` (10_state.md R30; log entry 8). -/
def State.callNextActive (s : State) : State :=
  if s.ctlp.length < 4 then s.call .ae3 .na1 else s.goto .ae2n1

/-- Every labelled line. An internal fault at `GW.12` keeps `OP` (log entry 27). -/
def line (l : Label) (s : State) : Line :=
  match l with
  -- RUN (R125)
  | .run1 => .silent (s.call .run2 .su1)
  | .run2 => .silent (s.call .run3 .rs1)
  | .run3 => .silent (s.call .run4 .gw1)
  | .run4 => .silent (s.goto .run3)
  -- SETUP (R110)
  | .su1 => .silent { s with mdir := markerDirection s.cfgl }.ret
  -- RESYNC (R115)
  | .rs1 => .silent (s.call .rs2 .ae1)
  | .rs2 => operate (opcWord 0x08) fun t => t.goto (if t.ansBit = t.cpol then .rs9 else .rs3)
  | .rs3 => operate (opcWord 0xD6) fun t =>
      let t := t.record .polarityMismatch
      if t.present .en then (withReg .cs t.op t fun v => (t.setReg .es v).call .rs4 .na1)
      else t.goto .rs7
  | .rs4 => operate (opcWord 0x13) fun t => (t.take .cs).goto .rs5
  | .rs5 => operate (opcWord 0xC8) fun t => t.goto .rs6
  | .rs6 => operate (opcWord 0x20) fun t => t.goto .rs2
  | .rs7 => operate (opcWord 0x18) fun t => t.goto .rs8
  | .rs8 => operate (opcWord 0x10) fun t => (t.take .cs).goto .rs9
  | .rs9 => operate (opcWord 0xC4) fun t => t.ret
  -- ADV_ACTIVE_ENABLE (R113)
  | .ae1 => if s.present .en then .silent (s.goto .ae2)
            else operate (opcWord 0x10) fun t => (t.take .cs).ret
  | .ae2 => .silent s.callNextActive
  | .ae2n1 => operate (opcWord 0x0B) fun t =>
      t.goto (if t.ansBit = t.enpol then .ae2n2 else .ae2n3)
  | .ae2n2 => operate (opcWord 0x1B) fun t => t.goto .ae2n3
  | .ae2n3 => operate (opcWord 0x1B) fun t => t.goto .ae3
  | .ae3 => operate (opcWord 0x13) fun t => (t.take .cs).goto .ae4
  | .ae4 => operate (opcWord 0x20) fun t => t.ret
  -- NEXT_ACTIVE_EDGE (R112)
  | .na1 => operate (opcWord 0x0B) fun t => t.goto (if t.ansBit = t.enpol then .na2 else .na3)
  | .na2 => operate (opcWord 0x1B) fun t => t.goto .na3
  | .na3 => operate (opcWord 0x1B) fun t => t.ret
  -- RACE_CHECK (R120)
  | .rc1 => if s.present .en then .silent (s.goto .rc2) else .silent { s with rt := false }.ret
  | .rc2 => operate (opcWord 0x38) fun t => t.goto (if t.ansBit then .rc7 else .rc3)
  | .rc3 => operate (opcWord 0x0B) fun t => t.goto (if t.ansBit = t.enpol then .rc4 else .rc7)
  | .rc4 => operate (opcWord 0x3B) fun t => t.goto (if t.ansBit then .rc5 else .rc7)
  | .rc5 => operate (opcWord 0x2B) fun t => (t.take .rs).goto .rc6
  | .rc6 => operate (opcWord 0x30 SampleSel.rs.bits) fun t =>
      if t.ansBit then t.goto .rc7 else { t with rt := true }.goto .rc10
  | .rc7 => operate (opcWord 0x28) fun t => (t.take .rn).goto .rc8
  | .rc8 => operate (opcWord 0x33 SampleSel.rn.bits) fun t =>
      if t.ansBit then t.goto .rc9 else { t with rt := false }.ret
  | .rc9 => operate (opcWord 0x2B) fun t => { t.take .rs with rt := true }.goto .rc10
  | .rc10 => if s.raceEmit then operate (opcWord 0xCC DisableSel.rs.bits) fun t => t.ret
             else .silent s.ret
  -- GET_WORD (R127)
  | .gw1 => operate (opcWord 0x81) fun t => t.goto .gw2
  | .gw2 => operate (opcWord 0x49) fun t => t.goto .gw3
  | .gw3 => operate (opcWord 0x4A) fun t => { t with mb := [], nr := false }.goto .gw4
  | .gw4 => .silent (s.loopAt 0)
  | .gw5 => .silent ((s.goto .gw6).enterRace true)
  | .gw6 => .silent (
      if s.rt then
        (s.record (if s.i = 0#7 then .transactionEnd else .prematureDisable)).call .gwRet .rs1
      else s.goto .gw7)
  | .gw7 => operate (opcWord 0x18) fun t => t.goto .gw8
  | .gw8 => if s.i = 0#7 then operate (opcWord 0x10) fun t => (t.take .fs).goto .gw9
            else .silent (s.goto .gw9)
  | .gw9 => .silent (if s.edge = .leading then s.call .gw10 .sd1 else s.goto .gw10)
  | .gw10 => .silent (
      s.goto (if s.i.toNat + 1 = s.N ∧ s.edge = .leading then .gw11 else .gw14))
  | .gw11 => .silent ((s.goto .gw12).enterRace false)
  | .gw12 => .silent (
      if s.rt then withReg .rs s.op s fun t => ({ s with nr := true }.setReg .ds t).toMarkers
      else s.goto .gw13)
  | .gw13 => operate (opcWord 0x18) fun t => t.toMarkers
  | .gw14 => .silent ((s.goto .gw15).enterRace true)
  | .gw15 => .silent (
      if s.rt then (s.record .prematureDisable).call .gwRet .rs1 else s.goto .gw16)
  | .gw16 => operate (opcWord 0x18) fun t => t.goto .gw17
  | .gw17 => .silent (if s.edge = .trailing then s.call .gw4next .sd1 else s.goto .gw4next)
  | .gw4next => .silent (s.loopAt (s.i.toNat + 1))
  | .gw18 => if s.k.toNat < s.mb.length
             then operate (opcWord (0xD4#8 ||| s.mdir.setWidth 8)) fun t => t
             else .silent (s.goto .gw19)
  | .gw19 => .operation (opcWord 0x10) fun t =>
      proceed (exec .emitResult t) fun u => .next (u.goto .gw20)
  | .gw20 => if s.nr then
               operate (opcWord 0xCC DisableSel.ds.bits) fun t =>
                 (t.record .transactionEnd).call .gwRet .rs1
             else .silent s.ret
  | .gwRet => .silent s.ret
  -- SAMPLE_DATA (R129)
  | .sd1 => operate (opcWord 0x10) fun t => (t.take .cs).goto .sd2
  | .sd2 => if s.present .dout then operate (opcWord 0x21) fun t => t.goto .sd3
            else .silent (s.goto .sd3)
  | .sd3 => if s.present .dout then .operation (opcWord 0x09) (addLevel .dout .sd4)
            else .silent (s.goto .sd4)
  | .sd4 => if s.present .din then operate (opcWord 0x22) fun t => t.goto .sd5
            else .silent (s.goto .sd5)
  | .sd5 => if s.present .din then .operation (opcWord 0x0A) (addLevel .din .sd6)
            else .silent (s.goto .sd6)
  | .sd6 => .silent s.noteSample

/-- Lines that perform no operation are performed as part of the next step (00_scope.md R13):
control goes through them, at most `fuel` in a row. -/
def settle : Nat → State → State
  | 0, s => s
  | fuel + 1, s =>
    match s.ctlp with
    | .line l :: _ =>
      match line l s with
      | .silent t => settle fuel t
      | .operation _ _ => s
    | _ => s

/-- More lines in a row than any control stack of four labels holds without an operation. -/
def settleFuel : Nat := 40

/-- The code word at the control point: that of the line's operation, or the word itself. -/
def State.fetch (s : State) : Option Code :=
  match s.ctlp with
  | .line l :: _ =>
    match line l s with
    | .operation c _ => some c
    | .silent _ => none
  | .word c :: _ => some c
  | [] => none

/-- The operation the code word `c` names is performed; a reserved code is refused. -/
def execCode (c : Code) (s : State) : Out :=
  match decode c with
  | some i => exec i s
  | none => .refused (.reservedCode c)

/-- A code word standing alone: it leaves the stack, its operation is performed, and it comes back
to be tried again where the operation waits (log entry 2). -/
def wordStep (c : Code) (stack : List Point) (s : State) : Out :=
  match execCode c { s with ctlp := stack } with
  | .next t => if t.runState = .waiting then .next { t with ctlp := .word c :: stack } else .next t
  | .fault r => .fault r
  | .refused r => .refused r

/-- The step at the control point, once control has gone through the lines before it that perform
no operation. -/
def pointStep (s : State) : Out :=
  match s.ctlp with
  | .line l :: _ =>
    match line l s with
    | .operation c rest => proceed (execCode c s) rest
    | .silent _ => .fault .noControlPoint
  | .word c :: stack => wordStep c stack s
  | [] => if s.inRun then .fault .noControlPoint else .next s

/-- One decoder step (00_scope.md R13). Between runs the decoder takes no step and keeps its state
(60_exceptions.md R172). -/
def decoderStep (s : State) : Out :=
  if s.inRun then pointStep (settle settleFuel s) else .next s

end Sys2Proof.Machine
end

