-- ==== Sys2Proof/Machine/Environment.lean ====
section
/-! DEFINITION. What each input of the environment does (00_scope.md R10, 20_memory.md R49, R56,
46_host_interface.md, 70_reset_and_hazards.md R186). -/

namespace Sys2Proof.Machine

open Sys2Proof

/-- The code word of a host access, `W ++ offset[3:0]` with its data (30_encoding.md R88). -/
def HostAccess.code (a : HostAccess) : Code :=
  haWord ((BitVec.ofBool a.write ++ a.offset).setWidth 8) (if a.write then a.data else 0#32)

/-- A host access: a 32-bit access at a multiple of 4 is the instruction its code names; any other
is refused (46_host_interface.md R155). -/
def hostInput (a : HostAccess) (s : State) : Out :=
  match a.size, decode a.code with
  | .word, some i => exec i s
  | _, _ => refusedAccess a.write s

/-- An access at a platform address: the block sees those in the 16 bytes at `SPD_BASE` and no
other (20_memory.md R46, R56). -/
def busInput (addr : Nat) (write : Bool) (size : AccessSize) (data : Word) (s : State) : Out :=
  if Config.spdBase ≤ addr ∧ addr < Config.spdBase + 16 then
    hostInput ⟨write, size, BitVec.ofNat 4 (addr - Config.spdBase), data⟩ s
  else .next s

/-- What the schedule's next entry does. -/
def inputStep (e : Input) (s : State) : Out :=
  match e with
  | .decoder => decoderStep s
  | .host a => hostInput a s
  | .bus addr write size data => busInput addr write size data s
  | .grow c h => growInput c h s
  | .present cap hz => presentInput cap hz s
  | .rst => rstInput s

/-- One step: the schedule's next entry, or the decoder where the schedule has none. -/
def stepState (s : State) : Out :=
  match s.env with
  | [] => decoderStep s
  | e :: rest => inputStep e { s with env := rest }

/-- The state in which the very next step runs the table word: a host access is the schedule's next
entry; an operation or a procedure stands at the control point of a run, and the decoder is next
(log entry 2). -/
def placeWord (s : State) (nbits w : Nat) : State :=
  let c := tableCode nbits w
  match c.fmt with
  | .ha =>
    { s with env := .host ⟨c.bits.getLsbD 4, .word, c.bits.extractLsb' 0 4, c.opnd⟩ :: s.env }
  | _ => { s with ctlp := .word c :: s.ctlp, runState := .running, env := .decoder :: s.env }

end Sys2Proof.Machine
end

