-- ==== Sys2Proof/Safety.lean ====
section
/-! DEFINITION. What counts as a safe run: the invariants of the machine, the grammar of the record
stream, and the small vocabulary the statements use. -/

namespace Sys2Proof.Machine

open Sys2Proof

/-! ## Vocabulary -/

/-- The label control is at. -/
def State.top (s : State) : Option Label :=
  match s.ctlp with
  | .line l :: _ => some l
  | _ => none

/-- The label control returns to. -/
def State.under (s : State) : Option Label :=
  match s.ctlp with
  | _ :: .line l :: _ => some l
  | _ => none

/-- Control is at one of the labels `ls`. -/
def State.isAt (s : State) (ls : List Label) : Prop := ∃ l ∈ ls, s.top = some l

/-- `t` is the first transition of `c` after `P_c`, available or not. -/
def State.FirstAfter (s : State) (c : Channel) (t : Sample) : Prop :=
  t ∈ (s.cap.wave.get c).edges ∧ s.pos.get c < t ∧
    ∀ u ∈ (s.cap.wave.get c).edges, s.pos.get c < u → t ≤ u

/-- `t` is the first AVAILABLE transition of `c` after `P_c`: the `min(A)` of 40_cursor.md R98. -/
def State.NextAvailable (s : State) (c : Channel) (t : Sample) : Prop :=
  t ∈ (s.cap.wave.get c).edges ∧ s.pos.get c < t ∧ t.toNat < s.hz.get c ∧
    ∀ u ∈ (s.cap.wave.get c).edges, s.pos.get c < u → u.toNat < s.hz.get c → t ≤ u

/-- No transition of `c` after `P_c` is available: the `A` of 40_cursor.md R98 is empty. -/
def State.NoneAvailable (s : State) (c : Channel) : Prop :=
  ∀ u ∈ (s.cap.wave.get c).edges, s.pos.get c < u → ¬ u.toNat < s.hz.get c

/-- The channel's data is all there: `H_c = L`. -/
def State.Complete (s : State) (c : Channel) : Prop := s.hz.get c = s.cap.len

/-- `t` is the next active-going enable edge: the least transition of `EN` after `P_EN` at which the
enable takes its active level (42_resync.md R112). -/
def State.NextActive (s : State) (t : Sample) : Prop :=
  t ∈ s.cap.wave.en.edges ∧ s.pos.en < t ∧ s.cap.wave.en.levelAt t = s.enpol ∧
    ∀ u ∈ s.cap.wave.en.edges, s.pos.en < u → s.cap.wave.en.levelAt u = s.enpol → t ≤ u

/-- The run has ended with `INTERNAL_FAULT` at the operation `code` (60_exceptions.md R162). -/
def State.faulted (s : State) (code : BitVec 8) : State :=
  { s with op := code, runState := .fault, cause := .internalFault, ctlp := [] }

/-- The run has ended with `END_OF_DATA` at the operation `code` (60_exceptions.md R160). -/
def State.outOfData (s : State) (code : BitVec 8) : State :=
  { s with op := code, runState := .doneEod, cause := .endOfData, ctlp := [] }

/-- The data channel of an accumulator. -/
def accChannel : AccSel → Channel
  | .dout => .dout
  | .din => .din

/-! ## Soundness of the state -/

/-- Which procedure (by `PROC` id) may have been called from the line before label `m`, so that it
returns there (10_state.md R30). -/
def mayReturnTo (callee : BitVec 5) : Label → Bool
  | .run2 => callee == 2
  | .run3 => callee == 3
  | .run4 => callee == 3 || callee == 7
  | .rs2 => callee == 4
  | .gwRet => callee == 3
  | .rs4 | .ae3 => callee == 5
  | .gw6 | .gw12 | .gw15 => callee == 6
  | .gw10 | .gw4next => callee == 8
  | _ => false

/-- The procedure whose place on the control stack a label stands in: its own, or
`ADV_ACTIVE_ENABLE`'s for the lines of `NEXT_ACTIVE_EDGE` that `AE.2` calls where four labels stand
(log entry 8). -/
def placeOf : Label → BitVec 5
  | .ae2n1 | .ae2n2 | .ae2n3 => 4
  | l => labelProc l

/-- The control stack is nested as the procedures call each other (10_state.md R30). -/
def stackOk : List Point → Bool
  | [] => true
  | [.line l] => placeOf l == 1
  | .line l :: .line m :: rest => mayReturnTo (placeOf l) m && stackOk (.line m :: rest)
  | _ => false

/-- What holds of every state, whatever the capture, the schedule and the configuration. -/
structure State.Sound (s : State) : Prop where
  /-- the capture has its canonical form (20_memory.md R47, R48) -/
  capture : s.cap.wf = true
  /-- 1 <= `H_c` <= `L` (20_memory.md R49) -/
  horizon : ∀ c, 1 ≤ s.hz.get c ∧ s.hz.get c ≤ s.cap.len
  /-- reserved bits of `CFG` and `CFGL` are 0 (30_encoding.md R68) -/
  reserved : s.cfg &&& cfgDefined = s.cfg ∧ s.cfgl &&& cfgDefined = s.cfgl
  /-- `CFGL` holds legal values only (10_state.md R38) -/
  legal : cfgLegal s.cfgl = true
  /-- the control stack is nested as the procedures call each other (10_state.md R30) -/
  stack : stackOk s.ctlp = true
  /-- `CTLP` holds at most four labels (10_state.md R30) -/
  depth : s.ctlp.length ≤ 4
  /-- a callee stands in its caller's place only where four labels stand (log entry 8) -/
  full : s.isAt [.ae2n1, .ae2n2, .ae2n3] → s.ctlp.length = 4
  /-- between runs `CTLP` is empty, and during a run it is not (10_state.md R30) -/
  running : s.inRun = true ↔ s.ctlp ≠ []
  /-- `P_c < H_c` during a run (20_memory.md R63) -/
  position : s.inRun = true → ∀ c, s.present c = true → (s.pos.get c).toNat < s.hz.get c
  /-- `MBN` never exceeds 64 (10_state.md R33) -/
  markers : s.mb.length ≤ 64
  /-- `MDIR` is `UP` or `DOWN` (10_state.md R22) -/
  direction : s.mdir = 0#2 ∨ s.mdir = 1#2
  /-- no accumulator waits for more than `N` bits -/
  remaining : ∀ a, (s.acc a).r.toNat ≤ s.N
  /-- no accumulator holds a bit at or above position `N` (41_accumulator.md R108) -/
  width : ∀ a, (s.acc a).v.toNat < 2 ^ s.N

/-! ## A run in good order: what keeps `INTERNAL_FAULT` unreachable -/

/-- The registers this run has written when control is at `l` (10_state.md R29). -/
def needsReg : Label → List SampleReg
  | .rs2 | .rs3 | .rs6 | .rs9 | .ae4 | .sd2 | .sd3 | .sd4 | .sd5 | .sd6 => [.cs]
  | .rs5 => [.cs, .es]
  | .rc6 | .rc10 => [.rs]
  | .rc8 => [.rn]
  | _ => []

/-- The labels that only a run with the enable channel present reaches. -/
def needsEnable : Label → Bool
  | .rs4 | .rs5 | .rs6 | .ae2 | .ae3 | .ae4 | .na1 | .na2 | .na3 => true
  | .ae2n1 | .ae2n2 | .ae2n3 => true
  | .rc2 | .rc3 | .rc4 | .rc5 | .rc6 | .rc7 | .rc8 | .rc9 | .rc10 => true
  | _ => false

/-- The labels of `GET_WORD` at which the first edge of the word has been crossed. -/
def needsFirst (i : BitVec 7) : Label → Bool
  | .gw5 | .gw6 | .gw7 | .gw8 => i != 0#7
  | .gw9 | .gw10 | .gw11 | .gw12 | .gw13 | .gw14 | .gw15 | .gw16 | .gw17 | .gw4next => true
  | .gw18 | .gw19 => true
  | _ => false

/-- The labels of the bit loop. -/
def inLoop : Label → Bool
  | .gw5 | .gw6 | .gw7 | .gw8 | .gw9 | .gw10 | .gw11 | .gw12 | .gw13 | .gw14 | .gw15 => true
  | .gw16 | .gw17 | .gw4next => true
  | _ => false

/-- How many bits of the word have been sampled when `GET_WORD` is at `l` (44_word_extraction.md
R136). -/
def State.takenAt (s : State) : Label → Option Nat
  | .gw4 => some 0
  | .gw5 | .gw6 | .gw7 | .gw8 | .gw9 => some s.i.toNat
  | .gw10 | .gw11 | .gw12 | .gw13 | .gw14 | .gw15 | .gw16 | .gw17 =>
      some (s.i.toNat + if s.edge = .leading then 1 else 0)
  | .gw4next => some (s.i.toNat + 1)
  | .gw18 | .gw19 => some s.N
  | _ => none

/-- How many bits of the word have been sampled, read from the control stack. -/
def State.taken (s : State) : Option Nat :=
  match s.top with
  | none => none
  | some l =>
    if labelProc l = 8 then some s.i.toNat
    else if labelProc l = 6 then s.under.bind s.takenAt
    else s.takenAt l

/-- Whether the bit now being sampled has already gone into accumulator `a`. -/
def State.midSample (s : State) (a : AccSel) : Bool :=
  match a, s.top with
  | .dout, some .sd4 | .dout, some .sd5 | .dout, some .sd6 | .din, some .sd6 => true
  | _, _ => false

/-- A state whose run is in good order. -/
structure State.Proper (s : State) : Prop where
  sound : s.Sound
  written : ∀ l, s.top = some l → ∀ r ∈ needsReg l, (s.reg r).written = true
  spanStart : Point.line .rs4 ∈ s.ctlp → s.es.written = true
  enable : ∀ l, Point.line l ∈ s.ctlp → needsEnable l = true → s.present .en = true
  noEnable : ∀ l, Point.line l ∈ s.ctlp → (l = .rs7 ∨ l = .rs8) → s.present .en = false
  first : ∀ l, Point.line l ∈ s.ctlp → needsFirst s.i l = true → s.fs.written = true
  toggle : s.rt = true → s.rs.written = true ∧ s.present .en = true
  deferred : s.nr = true → s.ds.written = true ∧ s.present .en = true
  fresh : ∀ l, Point.line l ∈ s.ctlp → (l = .gw4 ∨ inLoop l = true) → s.nr = false
  toggled : s.top = some .rc10 → s.rt = true
  setup : s.inRun = true → s.top ≠ some .run1 → s.top ≠ some .su1 →
    s.mdir = markerDirection s.cfgl
  raceCall : ∀ l m, s.top = some l → s.under = some m → labelProc l = 6 →
    s.raceEmit = !(m == .gw12)
  sampleCall : ∀ l, s.top = some l → labelProc l = 8 →
    (s.under = some .gw10 → s.edge = .leading) ∧ (s.under = some .gw4next → s.edge = .trailing)
  lastBit : (Point.line .gw11 ∈ s.ctlp ∨ Point.line .gw12 ∈ s.ctlp ∨ Point.line .gw13 ∈ s.ctlp) →
    s.i.toNat + 1 = s.N ∧ s.edge = .leading
  index : ∀ l, Point.line l ∈ s.ctlp → inLoop l = true → s.i.toNat < s.N
  count : ∀ n, s.taken = some n → s.mb.length = n
  left : ∀ n, s.taken = some n → ∀ a, s.present (accChannel a) = true →
    (s.acc a).r.toNat + n + (if s.midSample a then 1 else 0) = s.N
  emitted : s.top = some .gw18 → s.k.toNat ≤ s.N
  firstReset : s.top = some .gw3 → s.accDout.r = cfgN s.cfgl

/-! ## The race check's guard (43_race_detection.md R124) -/

/-- The labels at which the enable cursor stands on the active level. -/
def activeAt : Label → Bool
  | .run1 | .run2 | .su1 | .rs1 | .rs7 | .rs8 | .ae1 | .ae2 | .na1 | .na3 => false
  | .ae2n1 | .ae2n3 => false
  | _ => true

/-- Crossing the clock's next edge crosses no enable transition: what a `RACE_CHECK` that answers
"no toggle" has established. -/
def State.ClockMayAdvance (s : State) : Prop :=
  ∃ r, s.FirstAfter .clk r ∧ ∀ t ∈ s.cap.wave.en.edges, ¬ (s.pos.en < t ∧ t ≤ r)

/-- With the enable channel present, the clock is never moved past the transaction's deasserting
edge. -/
structure State.Guarded (s : State) : Prop where
  /-- no enable transition `t` with `P_EN < t <= P_CLK` (R62, R124) -/
  clear : ∀ t ∈ s.cap.wave.en.edges, ¬ (s.pos.en < t ∧ t ≤ s.pos.clk)
  active : ∀ l, s.top = some l → activeAt l = true → s.levelOf .en = s.enpol
  inactive : s.isAt [.na3, .ae2n3] → s.levelOf .en ≠ s.enpol
  behind : s.isAt [.ae3, .ae4, .rs4, .rs5, .rs6] → s.pos.clk < s.pos.en
  target : s.isAt [.ae4, .rs2, .rs3, .rs5, .rs6, .rs9] → s.cs = .holding s.pos.en
  aligned : s.isAt [.rs2, .rs3, .rs9] → s.pos.clk = s.pos.en
  nextClock : s.top = some .rc8 → s.FirstAfter .clk s.rn.val
  advance : s.isAt [.gw7, .gw13, .gw16] ∨ (s.isAt [.gw6, .gw12, .gw15] ∧ s.rt = false) →
    s.ClockMayAdvance
  toggle : s.isAt [.rc6, .rc10] ∨ (s.isAt [.gw6, .gw12, .gw15] ∧ s.rt = true) →
    s.FirstAfter .en s.rs.val
  deferred : s.isAt [.gw18, .gw19, .gw20] → s.nr = true → s.FirstAfter .en s.ds.val

/-- The whole invariant of a run: in good order and, with the enable channel, guarded. -/
def State.Inv (s : State) : Prop :=
  s.Proper ∧ (s.inRun = true → s.present .en = true → s.Guarded)

/-- The data cursors are behind the clock cursor (20_memory.md R62). -/
def State.DataBehind (s : State) : Prop :=
  s.inRun = true →
    (s.present .dout = true → s.pos.dout ≤ s.pos.clk) ∧
    (s.present .din = true → s.pos.din ≤ s.pos.clk) ∧
    (s.isAt [.sd2, .sd3, .sd4, .sd5, .sd6] → s.cs = .holding s.pos.clk)

/-! ## The order of clock edges inside a word (44_word_extraction.md R128) -/

/-- Whether the clock stands at its idle level (`some true`) or away from it (`some false`) where
control is; `none` where either may be. -/
def State.clockIdle (s : State) : Option Bool :=
  match s.top with
  | none => none
  | some l =>
    match l with
    | .run3 | .run4 | .rs8 | .rs9 | .gwRet => some true
    | .gw1 | .gw2 | .gw3 | .gw4 | .gw5 | .gw6 | .gw7 | .gw17 | .gw4next => some true
    | .rs3 | .rs7 => some false
    | .gw8 | .gw9 | .gw10 | .gw11 | .gw12 | .gw13 | .gw14 | .gw15 | .gw16 => some false
    | .gw18 | .gw19 | .gw20 => some !s.nr
    | .sd1 | .sd2 | .sd3 | .sd4 | .sd5 | .sd6 => some (s.under == some .gw4next)
    | .rc1 | .rc2 | .rc3 | .rc4 | .rc5 | .rc6 | .rc7 | .rc8 | .rc9 | .rc10 =>
        some (s.under == some .gw6)
    | _ => none

/-- The clock's level is the one its place in the word asks for. -/
def State.ClockPhase (s : State) : Prop :=
  ∀ b, s.clockIdle = some b → (s.levelOf .clk == s.cpol) = b

/-! ## The grammar of the record stream (45_events.md R148) -/

/-- Where a stream stands in the grammar. -/
inductive Phase where
  /-- before `MARKER(ERROR)` or `START` -/
  | boundary
  /-- after an error marker, before its `ERROR` (enable present) -/
  | errorSpan
  /-- after the error marker, before `START` (enable absent) -/
  | lateStart
  /-- inside a transaction, at a word boundary -/
  | transaction
  /-- after `j` markers of a word -/
  | word (j : Nat)
  deriving DecidableEq, Repr

/-- The grammar with `EN_P` = `en`, words of `n` bits and markers of kind `dir`. -/
def Phase.accept (en : Bool) (n : Nat) (dir : MarkerKind) : Phase → Record → Option Phase
  | .boundary, .marker _ .error => some (if en then .errorSpan else .lateStart)
  | .boundary, .start _ => some .transaction
  | .errorSpan, .error _ _ => some .boundary
  | .lateStart, .start _ => some .transaction
  | .transaction, .disable _ => if en then some .boundary else none
  | .transaction, .marker _ d => if d = dir ∧ 0 < n then some (.word 1) else none
  | .word j, .marker _ d => if d = dir ∧ j < n then some (.word (j + 1)) else none
  | .word j, .result _ _ _ _ w => if j = n ∧ w.toNat = n then some .transaction else none
  | _, _ => none

/-- The grammar along a list of records. -/
def Phase.run (en : Bool) (n : Nat) (dir : MarkerKind) : Phase → List Record → Option Phase
  | p, [] => some p
  | p, r :: rs => (p.accept en n dir r).bind fun q => q.run en n dir rs

/-- The kind of a run's per-bit markers (42_resync.md R111). -/
def State.dirKind (s : State) : MarkerKind :=
  if markerDirection s.cfgl = 0#2 then .up else .down

/-- The records of the run so far leave the stream in phase `p` when control is where it is in
`s`. -/
def State.phaseOk (s : State) (p : Phase) : Bool :=
  match s.top with
  | none => false
  | some l =>
    match l with
    | .run1 | .run2 | .su1 | .rs1 | .rs2 | .rs3 | .rs6 | .ae1 | .ae2 | .ae2n1 | .ae2n2 | .ae2n3
    | .ae3 | .ae4 =>
        p == .boundary
    | .rs4 | .rs5 => p == .errorSpan
    | .rs7 | .rs8 => p == .lateStart
    | .rs9 => p == .boundary || (p == .lateStart && !s.present .en)
    | .na1 | .na2 | .na3 => p == (if s.under = some .rs4 then .errorSpan else .boundary)
    | .gw6 | .gw15 => p == (if s.rt then .boundary else .transaction)
    | .gw18 => p == (if s.k = 0#7 then .transaction else .word s.k.toNat)
    | .gw19 => p == .word s.N
    | _ => p == .transaction

/-! ## The order of the record stream (20_memory.md R58) -/

/-- The markers still to be emitted for the word in progress: they rise, none is past the clock
cursor, and none has a key below `key`. -/
def State.markersOk (s : State) (key : Sample) : Prop :=
  s.taken ≠ none →
    s.mb.Pairwise (· ≤ ·) ∧ (∀ m ∈ s.mb, m ≤ s.pos.clk) ∧
    (s.top ≠ some .gw19 →
      ∀ m ∈ (if s.top = some .gw18 then s.mb.drop s.k.toNat else s.mb), key ≤ m)

/-- The last record emitted had key `key`, and where control is in `s` no record with a lower key
can follow. -/
def State.keyOk (s : State) (key : Sample) : Prop :=
  let waiting := ∀ t ∈ s.cap.wave.en.edges, s.pos.en < t → key ≤ t
  let behind := key ≤ s.pos.clk ∧ s.markersOk key
  if s.present .en = true then
    match s.top with
    | some .run1 | some .run2 | some .su1 | some .rs1 | some .ae1 | some .ae2
    | some .na1 | some .na2 | some .na3 | some .ae2n1 | some .ae2n2 | some .ae2n3 => waiting
    | some .rs2 | some .rs3 | some .rs4 | some .rs5 | some .rs6 | some .rs9
    | some .ae3 | some .ae4 => key ≤ s.pos.en
    | some .gw6 | some .gw15 => if s.rt = true then waiting else behind
    | _ => behind
  else behind ∧ (s.isAt [.rs2, .rs3, .rs9] → s.cs = .holding s.pos.clk)

/-! ## Words and values -/

/-- `k` steps of the machine. -/
def steps : Nat → State → Out
  | 0, s => .next s
  | k + 1, s =>
    match step s with
    | .next t => steps k t
    | .fault r => .fault r
    | .refused r => .refused r

/-- The value law of 41_accumulator.md R104: bit `b_k` has weight `2^(N-1-k)` most significant bit
first and `2^k` least significant bit first. -/
def valueOf (order : ShiftOrder) (bits : List Level) : Nat :=
  ((List.range bits.length).map fun k =>
    (bits.getD k false).toNat *
      2 ^ (match order with
           | .msbFirst => bits.length - 1 - k
           | .lsbFirst => k)).sum

/-- `AccAddBit` for each bit of a list, the first on the wire first. -/
def addBits (a : AccSel) : List Level → State → Out
  | [], s => .next s
  | b :: bs, s =>
    match exec (.accAddBit a b) s with
    | .next t => addBits a bs t
    | .fault r => .fault r
    | .refused r => .refused r

/-- The clock edges still to be crossed, in order. -/
def State.clockEdges (s : State) : List Sample :=
  s.cap.wave.clk.edges.filter fun t => decide (s.pos.clk < t)

/-- Where the word whose first clock edge is the next one samples its `N` bits
(44_word_extraction.md R128): at every other edge, the first or the second of each pair. -/
def State.sampleEdges (s : State) : List Sample :=
  (List.range s.N).map fun k =>
    s.clockEdges.getD (2 * k + (if s.edge = .leading then 0 else 1)) 0#64

/-- The value a data channel sends in that word: 0 where the channel is absent (41_accumulator.md
R109). -/
def State.sentValue (s : State) (a : AccSel) : Nat :=
  if s.present (accChannel a) = true then
    valueOf (cfgOrder s.cfgl)
      (s.sampleEdges.map fun t => (s.cap.wave.get (accChannel a)).levelAt t)
  else 0

/-- The `cc` field of a channel (30_encoding.md R73). -/
def channelCode : Channel → BitVec 8
  | .clk => 0
  | .dout => 1
  | .din => 2
  | .en => 3

/-- The `aa` field of an accumulator (30_encoding.md R74). -/
def accCode : AccSel → BitVec 8
  | .dout => 1
  | .din => 2

end Sys2Proof.Machine
end

