-- ==== Sys2Proof/Certificates/Slice0/Obligations.lean ====
section
/-! DEFINITION. The statements for the provers. Each docstring names the rule of the spec it comes
from. `exec i s` is the operation alone; `decoderStep s` is one step of the decoder; `steps k s` is
`k` steps of the machine. An operation that proceeds leaves `STATE` as it was, but for `WAITING`,
which becomes `RUNNING` (`RunState.resumed`), and sets `STATUS.OP` (10_state.md R36). -/

open Sys2Proof Sys2Proof.Machine

/-! ## Encodings -/

/-- 30_encoding.md R72 to R77, R88: decoding the code word of a well-formed instruction gives it
back, with every operand at every value. -/
def Obligations.DecodeInvertsEncode : Prop :=
  ∀ i : Instr, i.wf = true → decode (encode i) = some i

/-- 30_encoding.md R84, R85: each code word has one meaning, so a word that decodes is the word of
what it decodes to. The numbering of the operand selectors is the model's own (log entry 3). -/
def Obligations.EncodeInvertsDecode : Prop :=
  ∀ (c : Code) (i : Instr), decode c = some i → i.wf = true ∧ encode i = c

/-- 30_encoding.md R73, R74, R76, R77, R75, R88, R84: the codes the tables list are the only ones
that decode. -/
def Obligations.OnlyListedCodesDecode : Prop :=
  (∀ b : BitVec 8, (∃ o, decode ⟨.opc, b, o⟩ ≠ none) ↔
    b ∈ ([0x08, 0x09, 0x0A, 0x0B, 0x10, 0x11, 0x12, 0x13, 0x18, 0x19, 0x1A, 0x1B,
          0x20, 0x21, 0x22, 0x23, 0x28, 0x29, 0x2A, 0x2B, 0x30, 0x31, 0x32, 0x33,
          0x38, 0x39, 0x3A, 0x3B, 0x49, 0x4A, 0x51, 0x55, 0x52, 0x56, 0x81,
          0xC4, 0xC8, 0xCC, 0xD0, 0xD4, 0xD5, 0xD6] : List (BitVec 8))) ∧
  (∀ b : BitVec 8, (∃ o, decode ⟨.proc, b, o⟩ ≠ none) ↔ 1 ≤ b.toNat ∧ b.toNat ≤ 8) ∧
  (∀ b : BitVec 8, (∃ o, decode ⟨.ha, b, o⟩ ≠ none) ↔
    b ∈ ([0x00, 0x10, 0x04, 0x14, 0x08, 0x18, 0x0C, 0x1C] : List (BitVec 8)))

/-- 30_encoding.md R73 to R77, R88: words of the opcode table, one or more of each family, written
out from its fields. A number that two formats share is read as log entry 4 says. The table gives the
sample operand of `advTo` and `wouldCross` no bits: that the operand word 0 is `CS` is the model's
numbering (log entry 3). -/
def Obligations.TableWordsDecode : Prop :=
  decodeTableWord 8 0b00001000 = some .curLevelClk ∧
  decodeTableWord 8 0b00010011 = some .curPosEn ∧
  decodeTableWord 8 0b00011001 = some .curAdvEdgeDout ∧
  decodeTableWord 8 0b00100010 = some (.curAdvToDin .cs) ∧
  decodeTableWord 8 0b00101011 = some .curNextEdgeEn ∧
  decodeTableWord 8 0b00110000 = some (.curWouldCrossClk .cs) ∧
  decodeTableWord 8 0b00111011 = some .curHasMoreEn ∧
  decodeTableWord 8 0b01001010 = some .accResetDin ∧
  decodeTableWord 8 0b01010101 = some .accAddBitDout1 ∧
  decodeTableWord 8 0b10000001 = some .poll ∧
  decodeTableWord 8 0b11001000 = some .emitError ∧
  decodeTableWord 8 0b11010101 = some .emitMarkerDown ∧
  decodeTableWord 8 0b00000101 = some .procNextActiveEdge ∧
  decodeTableWord 8 0b00000111 = some .procGetWord ∧
  decodeTableWord 40 0x0000500810 = some (.wrCfg 0x00005008#32) ∧
  decodeTableWord 40 0x0000000114 = some .go ∧
  decodeTableWord 40 0x0000000214 = some .cancel ∧
  decodeTableWord 8 0b00000000 = some .rdCfg

/-- 30_encoding.md R78 to R80, R84: a reader of the stream gets a record's five words back as the
record, and reads no record from any other five words. 20_memory.md R53: serialized, the words are
40 bytes, W0 first, each word least significant byte first, and the words are read back from them. -/
def Obligations.RecordsReadBack : Prop :=
  (∀ r : Record, r.wf = true → r.words.read = some r) ∧
  (∀ (x : Rec) (r : Record), x.read = some r → r.words = x ∧ r.wf = true) ∧
  (∀ x : Rec,
    x.bytes.length = 40 ∧
    (∀ j k, j < 5 → k < 8 →
      x.bytes[8 * j + k]? =
        some (([x.w0, x.w1, x.w2, x.w3, x.w4].getD j 0).extractLsb' (8 * k) 8)) ∧
    Rec.ofBytes x.bytes = some x)

/-- 30_encoding.md R79 and the table of R80: the header and the four data words of each record
type. -/
def Obligations.RecordLayout : Prop :=
  let has := fun (x : Rec) (opc : BitVec 8) (err : Bool) (width : BitVec 7)
      (a b dout din : BitVec 64) =>
    x.w0.extractLsb' 0 8 = opc ∧ x.w0.getLsbD 8 = err ∧ x.w0.extractLsb' 9 7 = 0#7 ∧
    x.w0.extractLsb' 16 7 = width ∧ x.w0.extractLsb' 23 41 = 0#41 ∧
    x.w1 = a ∧ x.w2 = b ∧ x.w3 = dout ∧ x.w4 = din
  (∀ s, has (Record.start s).words 0xC4 false 0 s 0 0 0) ∧
  (∀ s e, has (Record.error s e).words 0xC8 true 0 s e 0 0) ∧
  (∀ s, has (Record.disable s).words 0xCC false 0 s 0 0 0) ∧
  (∀ s e o i w, has (Record.result s e o i w).words 0xD0 false w s e o i) ∧
  (∀ s, has (Record.marker s .up).words 0xD4 false 0 s 0 0 0) ∧
  (∀ s, has (Record.marker s .down).words 0xD5 false 0 s 0 0 0) ∧
  (∀ s, has (Record.marker s .error).words 0xD6 false 0 s 0 0 0)

/-! ## Cursor operations -/

/-- 40_cursor.md R96: `Cur.level(c)` answers the level of the waveform at `P_c`, writes nothing,
never waits and never ends the run; at sample 0 the level is `init_c`. -/
def Obligations.CurLevel : Prop :=
  ∀ (c : Channel) (s : State), s.present c = true →
    let w := s.cap.wave.get c
    let level := xor w.init ((w.edges.filter (fun t => decide (t ≤ s.pos.get c))).length % 2 == 1)
    exec (.level c) s = .next { s with
      op := 0x08#8 + channelCode c
      runState := s.runState.resumed
      ansBit := level } ∧
    (s.cap.wf = true → s.pos.get c = 0#64 → level = w.init)

/-- 40_cursor.md R97: `Cur.pos(c)` answers `P_c`, writes nothing, never waits or ends. -/
def Obligations.CurPos : Prop :=
  ∀ (c : Channel) (s : State), s.present c = true →
    exec (.pos c) s = .next { s with
      op := 0x10#8 + channelCode c
      runState := s.runState.resumed
      ansPos := s.pos.get c }

/-- 40_cursor.md R98: `Cur.advEdge(c)` moves `P_c` to the first available later transition, waits
while there is none and the channel is not complete, and ends the run when it is; after it the
level is the complement of the level before. -/
def Obligations.CurAdvEdge : Prop :=
  ∀ (c : Channel) (s : State), s.present c = true →
    let code := 0x18#8 + channelCode c
    (∀ t, s.NextAvailable c t →
      exec (.advEdge c) s = .next { s with
        op := code
        runState := s.runState.resumed
        pos := s.pos.set c t } ∧
      s.pos.get c < t ∧
      (s.cap.wf = true →
        (s.cap.wave.get c).levelAt t = !((s.cap.wave.get c).levelAt (s.pos.get c)))) ∧
    (s.NoneAvailable c → s.Complete c → exec (.advEdge c) s = .next (s.outOfData code)) ∧
    (s.NoneAvailable c → ¬ s.Complete c →
      exec (.advEdge c) s = .next { s with op := code, runState := .waiting })

/-- 40_cursor.md R99: `Cur.advTo(c, s)` does nothing where the operand is not later than `P_c`,
moves `P_c` to it where it is available, and else waits or ends the run. -/
def Obligations.CurAdvTo : Prop :=
  ∀ (c : Channel) (r : SampleSel) (s : State), s.present c = true →
    (s.reg (selReg r)).written = true →
    let code := 0x20#8 + channelCode c
    let t := (s.reg (selReg r)).val
    (t ≤ s.pos.get c →
      exec (.advTo c r) s = .next { s with op := code, runState := s.runState.resumed }) ∧
    (s.pos.get c < t → t.toNat < s.hz.get c →
      exec (.advTo c r) s = .next { s with
        op := code
        runState := s.runState.resumed
        pos := s.pos.set c t }) ∧
    (s.pos.get c < t → s.hz.get c ≤ t.toNat → s.Complete c →
      exec (.advTo c r) s = .next (s.outOfData code)) ∧
    (s.pos.get c < t → s.hz.get c ≤ t.toNat → ¬ s.Complete c →
      exec (.advTo c r) s = .next { s with op := code, runState := .waiting })

/-- 40_cursor.md R100: `Cur.nextEdge(c)` answers the first available later transition without
moving, and waits and ends exactly as `Cur.advEdge` does. -/
def Obligations.CurNextEdge : Prop :=
  ∀ (c : Channel) (s : State), s.present c = true →
    let code := 0x28#8 + channelCode c
    (∀ t, s.NextAvailable c t →
      exec (.nextEdge c) s = .next { s with
        op := code
        runState := s.runState.resumed
        ansPos := t }) ∧
    (s.NoneAvailable c → s.Complete c → exec (.nextEdge c) s = .next (s.outOfData code)) ∧
    (s.NoneAvailable c → ¬ s.Complete c →
      exec (.nextEdge c) s = .next { s with op := code, runState := .waiting })

/-- 40_cursor.md R101: `Cur.wouldCross(c, s)` answers whether a transition lies after `P_c` and at
or before the operand; it waits until the operand's sample is available. -/
def Obligations.CurWouldCross : Prop :=
  ∀ (c : Channel) (r : SampleSel) (s : State), s.present c = true →
    (s.reg (selReg r)).written = true →
    let code := 0x30#8 + channelCode c
    let t := (s.reg (selReg r)).val
    (t ≤ s.pos.get c →
      exec (.wouldCross c r) s = .next { s with
        op := code
        runState := s.runState.resumed
        ansBit := false }) ∧
    (s.pos.get c < t → t.toNat < s.hz.get c →
      ∃ b : Bool,
        (b = true ↔ ∃ e ∈ (s.cap.wave.get c).edges, s.pos.get c < e ∧ e ≤ t) ∧
        exec (.wouldCross c r) s = .next { s with
          op := code
          runState := s.runState.resumed
          ansBit := b }) ∧
    (s.pos.get c < t → s.hz.get c ≤ t.toNat → s.Complete c →
      exec (.wouldCross c r) s = .next (s.outOfData code)) ∧
    (s.pos.get c < t → s.hz.get c ≤ t.toNat → ¬ s.Complete c →
      exec (.wouldCross c r) s = .next { s with op := code, runState := .waiting })

/-- 40_cursor.md R102: `Cur.hasMore(c)` answers whether a transition after `P_c` is available; it
writes nothing and never waits or ends. -/
def Obligations.CurHasMore : Prop :=
  ∀ (c : Channel) (s : State), s.present c = true →
    ∃ b : Bool,
      (b = true ↔
        ∃ t ∈ (s.cap.wave.get c).edges, s.pos.get c < t ∧ t.toNat < s.hz.get c) ∧
      exec (.hasMore c) s = .next { s with
        op := 0x38#8 + channelCode c
        runState := s.runState.resumed
        ansBit := b }

/-! ## Internal faults -/

/-- 60_exceptions.md R162, 40_cursor.md R103, 10_state.md R29, R33, 93_implementation_defined.md U11,
U12: what no run reaches ends the run with `INTERNAL_FAULT` and emits nothing: a cursor operation on
an absent channel, a read of a working register or of a marker buffer entry that the run has not
written, a `SAMPLE_DATA` with a full marker buffer. (`AccAddBit` with `R_a` = 0 and a fifth label
are in `AccAddBit` and `ProcedureEntry`.) `SD.6` performs no operation: that `OP` then keeps the last
operation's code is the model's choice (log entry 27). -/
def Obligations.InternalFaults : Prop :=
  ∀ s : State,
    (∀ (c : Channel) (r : SampleSel), s.present c = false →
      exec (.level c) s = .next (s.faulted (0x08#8 + channelCode c)) ∧
      exec (.pos c) s = .next (s.faulted (0x10#8 + channelCode c)) ∧
      exec (.advEdge c) s = .next (s.faulted (0x18#8 + channelCode c)) ∧
      exec (.advTo c r) s = .next (s.faulted (0x20#8 + channelCode c)) ∧
      exec (.nextEdge c) s = .next (s.faulted (0x28#8 + channelCode c)) ∧
      exec (.wouldCross c r) s = .next (s.faulted (0x30#8 + channelCode c)) ∧
      exec (.hasMore c) s = .next (s.faulted (0x38#8 + channelCode c))) ∧
    (∀ (c : Channel) (r : SampleSel), s.present c = true → (s.reg (selReg r)).written = false →
      exec (.advTo c r) s = .next (s.faulted (0x20#8 + channelCode c)) ∧
      exec (.wouldCross c r) s = .next (s.faulted (0x30#8 + channelCode c))) ∧
    (s.cs.written = false →
      exec .emitStart s = .next (s.faulted 0xC4) ∧
      exec .emitMarkerError s = .next (s.faulted 0xD6)) ∧
    (s.es.written = false ∨ s.cs.written = false →
      exec .emitError s = .next (s.faulted 0xC8)) ∧
    (∀ r : DisableSel, (s.reg (disableReg r)).written = false →
      exec (.emitDisable r) s = .next (s.faulted 0xCC)) ∧
    (s.fs.written = false → exec .emitResult s = .next (s.faulted 0xD0)) ∧
    (s.mb.length ≤ s.k.toNat →
      exec .emitMarkerUp s = .next (s.faulted 0xD4) ∧
      exec .emitMarkerDown s = .next (s.faulted 0xD5)) ∧
    (s.mb.length = 64 ∨ s.cs.written = false → s.mb.length ≤ 64 →
      line .sd6 s = .silent (s.faulted s.op))

/-! ## Accumulators -/

/-- 41_accumulator.md R105: `AccReset(a)` writes `V_a` <- 0 and `R_a` <- `N`, and nothing else; it
is issued for both accumulators at the start of every word, whatever channels are present. -/
def Obligations.AccReset : Prop :=
  (∀ s : State,
    exec .accResetDout s = .next { s with
      op := 0x49, runState := s.runState.resumed, accDout := ⟨0#64, cfgN s.cfgl⟩ } ∧
    exec .accResetDin s = .next { s with
      op := 0x4A, runState := s.runState.resumed, accDin := ⟨0#64, cfgN s.cfgl⟩ }) ∧
  (∀ (s : State) (rest : List Point),
    (s.ctlp = .line .gw2 :: rest → s.fetch = some (encode .accResetDout)) ∧
    (s.ctlp = .line .gw3 :: rest → s.fetch = some (encode .accResetDin)))

/-- 41_accumulator.md R106: `AccAddBit(a, b)` inserts the bit at `R_a - 1` most significant bit
first and at `N - R_a` least significant bit first, and counts down; with `R_a` = 0 it is an
internal fault. -/
def Obligations.AccAddBit : Prop :=
  ∀ (a : AccSel) (b : Level) (s : State),
    let code : BitVec 8 := 0x50#8 + accCode a + (if b then 4 else 0)
    let x := s.acc a
    let k : Nat := if s.cfgl.getLsbD 8 = false then x.r.toNat - 1 else s.N - x.r.toNat
    let y : Accumulator := ⟨x.v ||| ((BitVec.ofBool b).setWidth 64 <<< k), x.r - 1⟩
    (x.r = 0#7 → exec (.accAddBit a b) s = .next (s.faulted code)) ∧
    (x.r ≠ 0#7 → a = .dout → exec (.accAddBit a b) s = .next { s with
      op := code, runState := s.runState.resumed, accDout := y }) ∧
    (x.r ≠ 0#7 → a = .din → exec (.accAddBit a b) s = .next { s with
      op := code, runState := s.runState.resumed, accDin := y })

/-- 41_accumulator.md R104, the value law: after `AccReset(a)` and the `N` bits of a word, `V_a` is
the sum of the bits by their weights, an unsigned value below `2^N`. -/
def Obligations.ValueLaw : Prop :=
  ∀ (a : AccSel) (bits : List Level) (s : State), cfgLegal s.cfgl = true → bits.length = s.N →
    ∃ r t, exec (.accReset a) s = .next r ∧ addBits a bits r = .next t ∧
      (t.acc a).v.toNat = valueOf (cfgOrder s.cfgl) bits ∧
      (t.acc a).v.toNat < 2 ^ s.N ∧ (t.acc a).r = 0#7

/-- 41_accumulator.md R107, the bit-reversal law: from one bit sequence of length `N`, the value
assembled most significant bit first is the `N`-bit reversal of the one assembled least significant
bit first. -/
def Obligations.BitReversalLaw : Prop :=
  ∀ (a : AccSel) (bits : List Level) (s u : State), cfgLegal s.cfgl = true → s.N = u.N →
    bits.length = s.N → cfgOrder s.cfgl = .msbFirst → cfgOrder u.cfgl = .lsbFirst →
    ∃ s₁ s₂ u₁ u₂,
      exec (.accReset a) s = .next s₁ ∧ addBits a bits s₁ = .next s₂ ∧
      exec (.accReset a) u = .next u₁ ∧ addBits a bits u₁ = .next u₂ ∧
      ∀ j, j < s.N → (s₂.acc a).v.getLsbD j = (u₂.acc a).v.getLsbD (s.N - 1 - j)

/-! ## The poll and the emissions -/

/-- 60_exceptions.md R161: `POLL_CANCEL` ends the run when `CP` is 1 (`OP` 0x81, `CTLP` empty, `CP`
and the records kept) and else does nothing; `GW.1` polls before anything of the word. -/
def Obligations.PollCancel : Prop :=
  ∀ s : State,
    (s.cp = true → exec .poll s = .next { s with
      op := 0x81, runState := .doneCancel, cause := .cancelled, ctlp := [] }) ∧
    (s.cp = false → exec .poll s = .next { s with op := 0x81, runState := s.runState.resumed }) ∧
    (∀ rest, s.ctlp = .line .gw1 :: rest → s.inRun = true → s.cp = true →
      decoderStep s = .next { s with
        op := 0x81, runState := .doneCancel, cause := .cancelled, ctlp := [] })

/-- 45_events.md R140 to R145, R147: each `emit` appends its one whole record, read from the
registers its fields name, and changes nothing else of the block but `STATUS.OP`; it never waits. The
per-bit marker is that of entry `k` of the marker buffer, and the loop of `GW.18` goes on to the next
entry (44_word_extraction.md R131); the index `k` is the model's own field (log entry 7). -/
def Obligations.EventEmission : Prop :=
  ∀ s : State,
    let sent := fun (code : BitVec 8) (r : Record) => { s with
      op := code, runState := s.runState.resumed, sink := s.sink ++ [r] }
    (s.cs.written = true → exec .emitStart s = .next (sent 0xC4 (.start s.cs.val))) ∧
    (s.cs.written = true →
      exec .emitMarkerError s = .next (sent 0xD6 (.marker s.cs.val .error))) ∧
    (s.es.written = true → s.cs.written = true →
      exec .emitError s = .next (sent 0xC8 (.error s.es.val s.cs.val))) ∧
    (s.rs.written = true →
      exec (.emitDisable .rs) s = .next (sent 0xCC (.disable s.rs.val))) ∧
    (s.ds.written = true →
      exec (.emitDisable .ds) s = .next (sent 0xCC (.disable s.ds.val))) ∧
    (s.fs.written = true →
      exec .emitResult s = .next (sent 0xD0
        (.result s.fs.val s.pos.clk s.accDout.v s.accDin.v (cfgN s.cfgl)))) ∧
    (∀ h : s.k.toNat < s.mb.length,
      exec .emitMarkerUp s =
        .next { sent 0xD4 (.marker (s.mb[s.k.toNat]'h) .up) with k := s.k + 1 } ∧
      exec .emitMarkerDown s =
        .next { sent 0xD5 (.marker (s.mb[s.k.toNat]'h) .down) with k := s.k + 1 })

/-! ## Procedures -/

/-- 10_state.md R30, 60_exceptions.md R162: entering a procedure pushes its first label and changes
nothing else (`RACE_CHECK` also takes its operand); a fifth label is an internal fault. The model's
choices: that a `PROC` row performed alone pushes and replaces no top label (log entry 18), that the
fault keeps `OP` (log entry 27), and the field `raceEmit` that holds the operand (log entry 7). -/
def Obligations.ProcedureEntry : Prop :=
  ∀ s : State,
    (s.ctlp.length < 4 →
      exec .procRun s = .next { s with ctlp := .line .run1 :: s.ctlp } ∧
      exec .procSetup s = .next { s with ctlp := .line .su1 :: s.ctlp } ∧
      exec .procResync s = .next { s with ctlp := .line .rs1 :: s.ctlp } ∧
      exec .procAdvActiveEnable s = .next { s with ctlp := .line .ae1 :: s.ctlp } ∧
      exec .procNextActiveEdge s = .next { s with ctlp := .line .na1 :: s.ctlp } ∧
      (∀ e, exec (.procRaceCheck e) s =
        .next { s with raceEmit := e, ctlp := .line .rc1 :: s.ctlp }) ∧
      exec .procGetWord s = .next { s with ctlp := .line .gw1 :: s.ctlp } ∧
      exec .procSampleData s = .next { s with ctlp := .line .sd1 :: s.ctlp }) ∧
    (4 ≤ s.ctlp.length →
      ∀ i ∈ [Instr.procRun, .procSetup, .procResync, .procAdvActiveEnable, .procNextActiveEdge,
             .procGetWord, .procSampleData],
        exec i s = .next (s.faulted s.op)) ∧
    (4 ≤ s.ctlp.length → ∀ e,
      exec (.procRaceCheck e) s = .next { s.faulted s.op with raceEmit := e })

/-- 42_resync.md R110, R111: `SETUP` sets `MDIR` by the marker polarity table and returns; it
performs no operation and changes nothing else. -/
def Obligations.SetupMarkerDirection : Prop :=
  ∀ s : State, s.ctlp.length < 4 →
    ∃ u, exec .procSetup s = .next u ∧
      (s.cfgl.getLsbD 9 = false → s.cfgl.getLsbD 10 = false →
        line .su1 u = .silent { s with mdir := 0#2 }) ∧
      (s.cfgl.getLsbD 9 = false → s.cfgl.getLsbD 10 = true →
        line .su1 u = .silent { s with mdir := 1#2 }) ∧
      (s.cfgl.getLsbD 9 = true → s.cfgl.getLsbD 10 = false →
        line .su1 u = .silent { s with mdir := 1#2 }) ∧
      (s.cfgl.getLsbD 9 = true → s.cfgl.getLsbD 10 = true →
        line .su1 u = .silent { s with mdir := 0#2 })

/-- 44_word_extraction.md R125: `RUN` sets up, resynchronizes once and then gets words for ever.
From `[RUN.1]`, and from where `RESYNC` or `GET_WORD` has returned, these are the calls made before
the next operation: 10_state.md R30's pushes, four labels deep with the enable channel. -/
def Obligations.RunLoop : Prop :=
  ∀ s : State,
    (s.ctlp = [.line .run1] →
      settle settleFuel s = { s with
        mdir := markerDirection s.cfgl
        ctlp := if s.present .en then [.line .na1, .line .ae3, .line .rs2, .line .run3]
                else [.line .ae1, .line .rs2, .line .run3] }) ∧
    (s.ctlp = [.line .run3] ∨ s.ctlp = [.line .run4] →
      settle settleFuel s = { s with ctlp := [.line .gw1, .line .run4] })

/-- 42_resync.md R112: with the enable channel complete, `NEXT_ACTIVE_EDGE` moves `P_EN` to the next
active-going enable edge and changes nothing else but `OP` and the answer of the level query; where
there is none, the run ends with `END_OF_DATA` and nothing is emitted. -/
def Obligations.NextActiveEdge : Prop :=
  ∀ s : State, s.runState = .running → s.env = [] → s.ctlp.length < 4 → s.present .en = true →
    s.cap.wf = true → s.Complete .en →
    (∀ t, s.NextActive t →
      ∃ k u, exec .procNextActiveEdge s = .next u ∧
        steps k u = .next { s with
          pos := s.pos.set .en t, op := 0x1B, ansBit := s.levelOf .en }) ∧
    ((∀ t, ¬ s.NextActive t) →
      ∃ k u v, exec .procNextActiveEdge s = .next u ∧ steps k u = .next v ∧
        v.runState = .doneEod ∧ v.cause = .endOfData ∧ v.op = 0x1B ∧ v.ctlp = [] ∧
        v.sink = s.sink)

/-- 42_resync.md R113: `ADV_ACTIVE_ENABLE` brings the enable and the clock cursor to the next
active-going edge, which becomes `CS`; with no enable channel `CS` takes the clock's position and no
cursor moves. 10_state.md R30: the call at `AE.2` leaves `AE.3` under `NA.1`; that where four labels
stand the callee takes the place of `AE.2`'s label is the model's choice (log entry 8). -/
def Obligations.AdvActiveEnable : Prop :=
  ∀ s : State, s.runState = .running → s.env = [] →
    (s.present .en = false → s.ctlp.length < 4 →
      ∃ u, exec .procAdvActiveEnable s = .next u ∧
        step u = .next { s with
          cs := ⟨s.pos.clk, true⟩, op := 0x10, ansPos := s.pos.clk }) ∧
    (s.present .en = true → s.ctlp.length < 4 → s.cap.wf = true → s.Complete .en →
      s.Complete .clk → ∀ t, s.NextActive t → s.pos.clk ≤ t →
      ∃ k u, exec .procAdvActiveEnable s = .next u ∧
        steps k u = .next { s with
          cs := ⟨t, true⟩
          pos := { s.pos with en := t, clk := t }
          op := 0x20
          ansBit := s.levelOf .en
          ansPos := t }) ∧
    (∀ rest, s.ctlp = .line .ae2 :: rest →
      (rest.length < 3 →
        line .ae2 s = .silent { s with ctlp := .line .na1 :: .line .ae3 :: rest }) ∧
      (rest.length = 3 → line .ae2 s = .silent { s with ctlp := .line .ae2n1 :: rest }))

/-- 43_race_detection.md R123: with no enable channel `RACE_CHECK` predicts no toggle, performs no
cursor operation and emits nothing. -/
def Obligations.RaceCheckNoEnable : Prop :=
  ∀ (s : State) (e : Bool), s.present .en = false → s.ctlp.length < 4 →
    ∃ u, exec (.procRaceCheck e) s = .next u ∧
      line .rc1 u = .silent { s with rt := false, raceEmit := e }

/-- 43_race_detection.md R121, case 1: no clock transition is available, the enable is active with
a further transition available, and the clock's data up to that transition is there: the check
predicts a toggle at it. -/
def Obligations.RaceCheckCaseOne : Prop :=
  ∀ (s : State) (e : Bool) (t : Sample), s.runState = .running → s.env = [] → s.ctlp.length < 4 →
    s.present .en = true → s.NoneAvailable .clk → s.levelOf .en = s.enpol →
    s.NextAvailable .en t → t.toNat < s.hz.clk →
    ∃ k u, exec (.procRaceCheck e) s = .next u ∧
      steps k u = .next { s with
        rt := true, rs := ⟨t, true⟩, raceEmit := e
        op := 0x30, ansBit := false, ansPos := t
        ctlp := .line .rc10 :: s.ctlp }

/-- 43_race_detection.md R122, case 2: the clock's next edge `r` is available, and the enable's data
up to it. The check predicts a toggle exactly when the enable has a transition after `P_EN` and at
or before `r`, and the toggle sample is the first of them. -/
def Obligations.RaceCheckCaseTwo : Prop :=
  ∀ (s : State) (e : Bool) (r : Sample), s.runState = .running → s.env = [] → s.ctlp.length < 4 →
    s.present .en = true → s.NextAvailable .clk r → r.toNat < s.hz.en →
    ((∀ t ∈ s.cap.wave.en.edges, ¬ (s.pos.en < t ∧ t ≤ r)) →
      ∃ k u, exec (.procRaceCheck e) s = .next u ∧
        steps k u = .next { s with
          rt := false, rn := ⟨r, true⟩, raceEmit := e
          op := 0x33, ansBit := false, ansPos := r }) ∧
    (∀ t, s.FirstAfter .en t → t ≤ r →
      ∃ k u, exec (.procRaceCheck e) s = .next u ∧
        steps k u = .next { s with
          rt := true, rs := ⟨t, true⟩, rn := ⟨r, true⟩, raceEmit := e
          op := 0x2B, ansBit := true, ansPos := t
          ctlp := .line .rc10 :: s.ctlp })

/-- 43_race_detection.md R120, `RC.10`: called with `emit` = 1 the check emits `DISABLE(RS)` and
returns; with `emit` = 0 it returns and emits nothing. -/
def Obligations.RaceCheckReport : Prop :=
  ∀ (s : State) (rest : List Point), s.inRun = true → s.ctlp = .line .rc10 :: rest →
    (s.raceEmit = true → s.rs.written = true →
      decoderStep s = .next { s with
        op := 0xCC, runState := .running, ctlp := rest
        sink := s.sink ++ [.disable s.rs.val] }) ∧
    (s.raceEmit = false → line .rc10 s = .silent { s with ctlp := rest })

/-- 42_resync.md R115, R116: with no enable channel `RESYNC` checks the clock where it stands; at
its idle level it emits `START` there, and else an error marker there and `START` after one clock
transition, with no `ERROR`. -/
def Obligations.ResyncWithoutEnable : Prop :=
  ∀ s : State, s.runState = .running → s.env = [] → s.ctlp.length < 3 → s.present .en = false →
    (s.levelOf .clk = s.cpol →
      ∃ k u, exec .procResync s = .next u ∧
        steps k u = .next { s with
          cs := ⟨s.pos.clk, true⟩
          sink := s.sink ++ [.start s.pos.clk]
          op := 0xC4, ansPos := s.pos.clk, ansBit := s.levelOf .clk }) ∧
    (s.levelOf .clk ≠ s.cpol → ∀ t, s.NextAvailable .clk t →
      ∃ k u, exec .procResync s = .next u ∧
        steps k u = .next { s with
          cs := ⟨t, true⟩, cause := .polarityMismatch
          pos := { s.pos with clk := t }
          sink := s.sink ++ [.marker s.pos.clk .error, .start t]
          op := 0xC4, ansPos := t, ansBit := s.levelOf .clk })

/-- 42_resync.md R114, R115, 60_exceptions.md R158: at a candidate start `CS`, a clock at its idle
level gives `START(CS)` and `RESYNC` returns. Any other level is a polarity error: with the enable
channel it is recorded by the error marker at `CS` and `ERROR` from `CS` to the next active-going
enable edge, where the check is made again; no data cursor moves and no accumulator changes. -/
def Obligations.PolarityCheck : Prop :=
  ∀ (s : State) (rest : List Point), s.runState = .running → s.env = [] →
    s.ctlp = .line .rs2 :: rest → s.cs.written = true →
    (s.levelOf .clk = s.cpol →
      steps 2 s = .next { s with
        sink := s.sink ++ [.start s.cs.val], ctlp := rest, op := 0xC4
        ansBit := s.levelOf .clk }) ∧
    (s.levelOf .clk ≠ s.cpol → rest.length < 3 → s.present .en = true → s.cap.wf = true →
      s.Complete .en → s.Complete .clk → ∀ t, s.NextActive t → s.pos.clk ≤ t →
      ∃ k v, steps k s = .next v ∧
        v = { s with
          es := ⟨s.cs.val, true⟩, cs := ⟨t, true⟩, cause := .polarityMismatch
          pos := { s.pos with en := t, clk := t }
          sink := s.sink ++ [.marker s.cs.val .error, .error s.cs.val t]
          op := v.op, ansBit := v.ansBit, ansPos := v.ansPos })

/-- 44_word_extraction.md R129: `SAMPLE_DATA` moves each present data cursor to the clock's
position, feeds the level there to its accumulator, and appends the position to the marker buffer;
an absent channel's cursor and accumulator keep their values. The last lines perform no operation
(`settle`). -/
def Obligations.SampleData : Prop :=
  ∀ s : State, s.runState = .running → s.env = [] → s.ctlp.length < 4 → s.mb.length < 64 →
    (∀ a, s.present (accChannel a) = true →
      s.pos.get (accChannel a) ≤ s.pos.clk ∧ s.pos.clk.toNat < s.hz.get (accChannel a) ∧
      (s.acc a).r ≠ 0#7) →
    let p := s.pos.clk
    let fed := fun (a : AccSel) =>
      if s.present (accChannel a) then
        (s.acc a).addBit (cfgOrder s.cfgl) s.N ((s.cap.wave.get (accChannel a)).levelAt p)
      else s.acc a
    ∃ k j u v w, exec .procSampleData s = .next u ∧ steps k u = .next v ∧ settle j v = w ∧
      w = { s with
        cs := ⟨p, true⟩
        pos := { s.pos with
          dout := if s.present .dout then p else s.pos.dout
          din := if s.present .din then p else s.pos.din }
        accDout := fed .dout
        accDin := fed .din
        mb := s.mb ++ [p]
        op := w.op, ansBit := w.ansBit, ansPos := w.ansPos }

/-- 60_exceptions.md R159, R163, 44_word_extraction.md R130: where the check of step 1 or step 5 has
predicted a toggle, the word is given up: the cause is recorded and control goes to `RESYNC`, with
no record and no register changed; after a word with `NR` the deferred `DISABLE` is emitted first.
60_exceptions.md R167, 10_state.md R36: `RESYNC` returns to `GET_WORD`, at the label `gwRet` of the
`return` that follows the call (log entry 6), where `STATUS.PROC` reads 7, and which returns to its
caller. -/
def Obligations.WordEndsAtToggle : Prop :=
  ∀ (s : State) (rest : List Point), rest.length < 3 →
    (s.ctlp = .line .gw6 :: rest → s.rt = true → line .gw6 s = .silent { s with
      cause := if s.i = 0#7 then .transactionEnd else .prematureDisable
      ctlp := .line .rs1 :: .line .gwRet :: rest }) ∧
    (s.ctlp = .line .gw15 :: rest → s.rt = true → line .gw15 s = .silent { s with
      cause := .prematureDisable, ctlp := .line .rs1 :: .line .gwRet :: rest }) ∧
    (s.ctlp = .line .gw12 :: rest → s.rt = true → s.rs.written = true →
      line .gw12 s = .silent { s with
        nr := true, ds := s.rs, k := 0#7, ctlp := .line .gw18 :: rest }) ∧
    (s.ctlp = .line .gw20 :: rest → s.inRun = true → s.nr = true → s.ds.written = true →
      decoderStep s = .next { s with
        op := 0xCC, runState := .running, cause := .transactionEnd
        ctlp := .line .rs1 :: .line .gwRet :: rest
        sink := s.sink ++ [.disable s.ds.val] }) ∧
    (s.ctlp = .line .rs9 :: .line .gwRet :: rest → s.inRun = true → s.cs.written = true →
      ∃ t, decoderStep s = .next t ∧ t.ctlp = .line .gwRet :: rest ∧ t.proc = 7#5 ∧
        t.sink = s.sink ++ [.start s.cs.val]) ∧
    (s.ctlp = .line .gwRet :: rest → line .gwRet s = .silent { s with ctlp := rest })

/-- 44_word_extraction.md R127 to R134, 41_accumulator.md R104, R109, 40_cursor.md R98: a word whose
`2N` clock edges all lie in the capture and inside the transaction is decoded: from `GET_WORD`'s
entry the machine reaches `GW.20` having emitted the `N` markers, at the edges the data is sampled
on, and then the `RESULT` from the word's first to its last clock edge, with the two values the data
channels send; the clock stands on the last edge, the enable cursor has not moved and no cause was
taken. Stated for data that is all available. -/
def Obligations.CleanWordDecodes : Prop :=
  ∀ (s : State), s.runState = .running → s.env = [] → s.ctlp.length < 3 → s.cp = false →
    cfgLegal s.cfgl = true → s.cap.wf = true →
    (∀ c, s.present c = true → s.Complete c) →
    (∀ a, s.present (accChannel a) = true → s.pos.get (accChannel a) ≤ s.pos.clk) →
    (s.mdir = 0#2 ∨ s.mdir = 1#2) →
    2 * s.N ≤ s.clockEdges.length →
    let first := s.clockEdges.getD 0 0#64
    let last := s.clockEdges.getD (2 * s.N - 1) 0#64
    (s.present .en = true → ∀ t ∈ s.cap.wave.en.edges, ¬ (s.pos.en < t ∧ t ≤ last)) →
    ∃ k u v, exec .procGetWord s = .next u ∧ steps k u = .next v ∧
      v.ctlp = .line .gw20 :: s.ctlp ∧ v.runState = .running ∧ v.nr = false ∧
      v.pos.clk = last ∧ v.pos.en = s.pos.en ∧ v.cause = s.cause ∧
      v.sink = s.sink
        ++ (s.sampleEdges.map fun t =>
              Record.marker t (if s.mdir = 0#2 then .up else .down))
        ++ [.result first last (BitVec.ofNat 64 (s.sentValue .dout))
              (BitVec.ofNat 64 (s.sentValue .din)) (cfgN s.cfgl)]

/-! ## Host accesses -/

/-- 46_host_interface.md R150: `CFG` reads as its defined bits, [14:8] and [6:0]; a write takes
those bits and ignores the others; neither changes anything else of the block. -/
def Obligations.CfgAccess : Prop :=
  ∀ s : State,
    (∃ v : Word,
      (∀ j, j < 32 → v.getLsbD j = (decide (j < 15 ∧ j ≠ 7) && s.cfg.getLsbD j)) ∧
      exec .rdCfg s = .next { s with hostData := v, hostErr := false }) ∧
    (∀ v : Word, ∃ w : Word,
      (∀ j, j < 32 → w.getLsbD j = (decide (j < 15 ∧ j ≠ 7) && v.getLsbD j)) ∧
      exec (.wrCfg v) s = .next { s with cfg := w, hostErr := false })

/-- 46_host_interface.md R151, 60_exceptions.md R156, 10_state.md R38: a `CTRL` write with bit [0]
set is ignored during a run, starts a run with every register at its start-of-run value when `CFG`
is legal, and is refused when it is not; bit [1] of the same write is processed after. It says
nothing of the model's own fields nor of the position of an absent channel (log entries 5, 7, 16). -/
def Obligations.GoWrite : Prop :=
  ∀ (i : Instr) (v : Word) (s : State), (i = .go ∧ v = 1#32 ∨ i = .wrCtrl v) →
    v.getLsbD 0 = true →
    let legal := 1 ≤ (s.cfg.extractLsb' 0 7).toNat ∧ (s.cfg.extractLsb' 0 7).toNat ≤ 64 ∧
      (s.cfg.getLsbD 12 = true ∨ s.cfg.getLsbD 13 = true)
    let new : WorkReg := ⟨0#64, false⟩
    (s.inRun = true →
      exec i s = .next { s with cp := s.cp || v.getLsbD 1, hostErr := false }) ∧
    (s.inRun = false → legal →
      ∃ t, exec i s = .next t ∧ t.proc = 1#5 ∧ t = { s with
        cfgl := s.cfg, mdir := 0#2
        cs := new, fs := new, ds := new, es := new, rs := new, rn := new
        nr := false, rt := false, cp := v.getLsbD 1, i := 0#7
        pos := { clk := 0#64
                 dout := if s.cfg.getLsbD 12 then 0#64 else t.pos.dout
                 din := if s.cfg.getLsbD 13 then 0#64 else t.pos.din
                 en := if s.cfg.getLsbD 14 then 0#64 else t.pos.en }
        accDout := ⟨0#64, 0#7⟩, accDin := ⟨0#64, 0#7⟩, mb := []
        ctlp := [.line .run1], runState := .running, cause := .none, op := 0x00
        ansBit := t.ansBit, ansPos := t.ansPos, k := t.k, raceEmit := t.raceEmit
        hostErr := false }) ∧
    (s.inRun = false → ¬ legal →
      exec i s = .next { s with
        runState := .rejected, cause := .configRejected, hostErr := false })

/-- 46_host_interface.md R152: a `CTRL` write with bit [1] set and bit [0] clear sets `CP` during a
run and does nothing else; between runs it does nothing. -/
def Obligations.CancelWrite : Prop :=
  ∀ (i : Instr) (v : Word) (s : State), (i = .cancel ∧ v = 2#32 ∨ i = .wrCtrl v) →
    v.getLsbD 0 = false → v.getLsbD 1 = true →
    (s.runState = .running ∨ s.runState = .waiting →
      exec i s = .next { s with cp := true, hostErr := false }) ∧
    (s.runState ≠ .running → s.runState ≠ .waiting →
      exec i s = .next { s with hostErr := false })

/-- 46_host_interface.md R153, 30_encoding.md R71, R82, R83: a `STATUS` read returns `PROC`, `OP`,
`CAUSE`, `CP` and `STATE` in their places and changes nothing of the block; after reset it is 0. -/
def Obligations.StatusRead : Prop :=
  (∀ s : State, ∃ v : Word,
    exec .rdStatus s = .next { s with hostData := v, hostErr := false } ∧
    v.extractLsb' 0 3 = (match s.runState with
      | .idle => 0 | .running => 1 | .waiting => 2 | .doneEod => 3 | .doneCancel => 4
      | .rejected => 5 | .fault => 6) ∧
    v.getLsbD 3 = s.cp ∧
    v.extractLsb' 4 4 = (match s.cause with
      | .none => 0 | .polarityMismatch => 1 | .prematureDisable => 2 | .endOfData => 3
      | .cancelled => 4 | .configRejected => 5 | .internalFault => 6 | .transactionEnd => 7) ∧
    v.extractLsb' 8 8 = s.op ∧
    (s.ctlp = [] → v.extractLsb' 16 5 = 0) ∧
    (∀ l rest, s.ctlp = .line l :: rest → v.extractLsb' 16 5 = labelProc l) ∧
    v.extractLsb' 21 11 = 0) ∧
  State.reset.statusWord = 0#32

/-- 46_host_interface.md R154: the other accesses at aligned offsets read 0 or change nothing, and
none is an error. -/
def Obligations.OtherAccesses : Prop :=
  ∀ s : State,
    exec .rdCtrl s = .next { s with hostData := 0#32, hostErr := false } ∧
    (∀ v : Word, v.getLsbD 0 = false → v.getLsbD 1 = false →
      exec (.wrCtrl v) s = .next { s with hostErr := false }) ∧
    (∀ v : Word, exec (.wrStatus v) s = .next { s with hostErr := false }) ∧
    exec .rdRsvd s = .next { s with hostData := 0#32, hostErr := false } ∧
    (∀ v : Word, exec (.wrRsvd v) s = .next { s with hostErr := false })

/-- 46_host_interface.md R155: an access that is not 32 bits wide or not at a multiple of 4 changes
no state of the block, raises no cause, and a refused read returns 0; whether the bus signals an
error is the platform's `HOST_ERR_SIGNAL`, here any value (log entry 14). -/
def Obligations.RefusedAccess : Prop :=
  ∀ (s : State) (a : HostAccess) (rest : List Input), s.env = .host a :: rest →
    (a.size ≠ .word ∨ a.offset.toNat % 4 ≠ 0) →
    ∃ t, step s = .next t ∧ (a.write = false → t.hostData = 0#32) ∧
      t = { s with env := rest, hostData := t.hostData, hostErr := Config.hostErrSignal }

/-- 20_memory.md R46, R56: of a platform's address map the block sees the 16 bytes at `SPD_BASE`,
here any base (log entry 14): an access there is the host access at that offset, an access elsewhere
does not reach the block. -/
def Obligations.RegisterWindow : Prop :=
  ∀ (s : State) (addr : Nat) (write : Bool) (size : AccessSize) (data : Word) (rest : List Input),
    s.env = .bus addr write size data :: rest →
    (∀ k, k < 16 → addr = Config.spdBase + k →
      step s = step { s with env := .host ⟨write, size, BitVec.ofNat 4 k, data⟩ :: rest }) ∧
    (addr < Config.spdBase ∨ Config.spdBase + 16 ≤ addr → step s = .next { s with env := rest })

/-! ## Steps -/

/-- 00_scope.md R13: a step runs the instruction at the control point, or the host access that
lands. A line's operation is performed and the rest of the line follows where it proceeded; a code
word standing alone (log entry 2) leaves the stack and comes back where its operation waits. That the
next entry of `env` says which of the two a step is, and that the decoder steps where `env` is empty,
is the model's choice (log entry 1). -/
def Obligations.StepRunsDecoded : Prop :=
  ∀ (s : State) (i : Instr),
    (s.env = [] → step s = decoderStep s) ∧
    (∀ rest, s.env = .decoder :: rest → step s = decoderStep { s with env := rest }) ∧
    (∀ a rest, s.env = .host a :: rest → a.size = .word → decode a.code = some i →
      step s = exec i { s with env := rest }) ∧
    (∀ l stack c after, s.inRun = true → s.ctlp = .line l :: stack →
      line l s = .operation c after → decode c = some i →
      decoderStep s = proceed (exec i s) after) ∧
    (∀ c stack, s.inRun = true → s.ctlp = .word c :: stack → decode c = some i →
      decoderStep s =
        (match exec i { s with ctlp := stack } with
         | .next t =>
             if t.runState = .waiting then .next { t with ctlp := .word c :: stack } else .next t
         | .fault r => .fault r
         | .refused r => .refused r))

/-- 00_scope.md R13: lines that perform no operation are performed as part of the next step: in a
sound state the step is the step of the state they leave. -/
def Obligations.SilentLinesJoinNextStep : Prop :=
  ∀ (s t : State) (l : Label) (stack : List Point), s.Sound → s.inRun = true →
    s.ctlp = .line l :: stack → line l s = .silent t → decoderStep s = decoderStep t

/-- 20_memory.md R52, 60_exceptions.md R172: a step that waits leaves everything as it was but
`STATE` and `OP` (the lines before the operation that perform none are done); some present channel
is incomplete; trying again, or a pending cancellation, changes nothing until data arrives. Between
runs the decoder takes no step. The model's choices: what the lines before the operation wrote stays
written while it waits (log entry 12), and the operation is retried without growth too (log entry
25). -/
def Obligations.WaitingKeepsState : Prop :=
  (∀ s t : State, s.Sound → s.inRun = true → decoderStep s = .next t → t.runState = .waiting →
    t = { settle settleFuel s with op := t.op, runState := .waiting } ∧
    (∃ c, t.present c = true ∧ t.hz.get c < t.cap.len) ∧
    decoderStep t = .next t ∧
    decoderStep { t with cp := true } = .next { t with cp := true }) ∧
  (∀ s : State, s.inRun = false → decoderStep s = .next s)

/-- 70_reset_and_hazards.md R186, 10_state.md R38: `RST` gives every piece of the block's state its
reset value, whatever the state; the records already emitted and the provider's capture stay. The
values of the model's own fields, and that the provider's capture stays at the port, are its choice
(log entries 5, 7, 11, 20). -/
def Obligations.HardwareReset : Prop :=
  ∀ (s : State) (rest : List Input), s.env = .rst :: rest →
    step s = .next {
      cfg := 0x00007008#32, cfgl := 0x00007008#32, mdir := 0#2
      cs := ⟨0#64, false⟩, fs := ⟨0#64, false⟩, ds := ⟨0#64, false⟩
      es := ⟨0#64, false⟩, rs := ⟨0#64, false⟩, rn := ⟨0#64, false⟩
      nr := false, rt := false, cp := false, i := 0#7
      pos := ⟨0#64, 0#64, 0#64, 0#64⟩
      accDout := ⟨0#64, 0#7⟩, accDin := ⟨0#64, 0#7⟩, mb := []
      ctlp := [], runState := .idle, cause := .none, op := 0x00
      ansBit := false, ansPos := 0#64, k := 0#7, raceEmit := false
      hostData := 0#32, hostErr := false
      cap := s.cap, hz := s.hz, sink := s.sink, env := rest }

/-- 20_memory.md R48, R49, 60_exceptions.md R170, 70_reset_and_hazards.md R188: a horizon never
shrinks nor passes `L`, and its growth changes nothing else; a capture is presented between runs,
and one presented during a run, or that is none, is refused by name. The model's choices: the
clamping (log entry 10) and the two refusals of inputs the spec only forbids (log entry 19). -/
def Obligations.ProviderInputs : Prop :=
  ∀ (s : State) (rest : List Input),
    (∀ c h, s.env = .grow c h :: rest →
      step s = .next { s with
        env := rest, hz := s.hz.set c (max (s.hz.get c) (min h s.cap.len)) }) ∧
    (∀ cap hz, s.env = .present cap hz :: rest →
      (s.inRun = true → step s = .refused .captureChangedDuringRun) ∧
      (s.inRun = false → cap.wf = false → step s = .refused .malformedCapture) ∧
      (s.inRun = false → cap.wf = true → ∃ t, step s = .next t ∧
        t = { s with env := rest, cap := cap, hz := t.hz } ∧
        ∀ c, 1 ≤ t.hz.get c ∧ t.hz.get c ≤ cap.len ∧
          (1 ≤ hz.get c → hz.get c ≤ cap.len → t.hz.get c = hz.get c)))

/-! ## Invariants of every step -/

/-- 10_state.md R38: the state after reset is in good order and guarded, the data cursors are behind
the clock and the clock's level is as its place asks. The capture that stands at the port at reset is
the model's choice (log entry 9). -/
def Obligations.ResetMeetsInvariants : Prop :=
  State.reset.Inv ∧ State.reset.DataBehind ∧ State.reset.ClockPhase

/-- 10_state.md R29, R30, R33, 20_memory.md R49, R62, R63, 41_accumulator.md R108,
43_race_detection.md R124: every step keeps the invariant, from every state that meets it. -/
def Obligations.StepKeepsInvariant : Prop :=
  ∀ s t : State, s.Inv → step s = .next t → t.Inv

/-- 60_exceptions.md R162, 44_word_extraction.md R136: `INTERNAL_FAULT` is unreachable: from a state
in good order no step takes it. -/
def Obligations.NoInternalFault : Prop :=
  ∀ s t : State, s.Proper → step s = .next t → t.runState = .fault → s.runState = .fault

/-- 00_scope.md R10, R13, 60_exceptions.md R170: from a state in good order every step answers a
next state, unless the environment presents a capture it may not present. -/
def Obligations.StepAlwaysProceeds : Prop :=
  ∀ s : State, s.Proper →
    (∀ cap hz rest, s.env = .present cap hz :: rest → s.inRun = false ∧ cap.wf = true) →
    ∃ t, step s = .next t

/-- 20_memory.md R62: every step keeps each present data cursor at or before the clock cursor. -/
def Obligations.DataCursorsBehindClock : Prop :=
  ∀ s t : State, s.Sound → s.DataBehind → step s = .next t → t.DataBehind

/-- 44_word_extraction.md R128, 42_resync.md R117: every step keeps the clock at the level its place
in the word asks for, so each word starts at the idle level, each bit crosses a leading edge and then
a trailing edge, and `START` is emitted only at the idle level. -/
def Obligations.ClockAlternates : Prop :=
  ∀ s t : State, s.Proper → s.ClockPhase → step s = .next t → t.ClockPhase

/-- 45_events.md R148: the record stream follows the grammar: from where the stream stands when
control is in `s`, one decoder step emits what the grammar accepts and leaves it where control then
is; a run never ends inside a word; and a run starts at a transaction boundary. -/
def Obligations.StreamGrammar : Prop :=
  (∀ (s t : State) (p : Phase), s.Proper → s.inRun = true → s.phaseOk p = true →
    decoderStep s = .next t →
    ∃ rs q, t.sink = s.sink ++ rs ∧ p.run (s.present .en) s.N s.dirKind rs = some q ∧
      (t.inRun = true → t.phaseOk q = true) ∧
      (t.inRun = false → ∀ j, q ≠ .word j)) ∧
  (∀ s t : State, s.inRun = false → cfgLegal s.cfg = true → exec .go s = .next t →
    t.phaseOk .boundary = true)

/-- 20_memory.md R58: the keys of the records of a run never decrease: a decoder step emits no
record with a key below the last one's, and leaves the run where none can follow; any key 0 or above
may come first. -/
def Obligations.RecordKeysNeverDecrease : Prop :=
  (∀ (s t : State) (key : Sample), s.Inv → s.DataBehind → s.inRun = true → s.keyOk key →
    decoderStep s = .next t →
    ∃ rs, t.sink = s.sink ++ rs ∧ (key :: rs.map Record.key).Pairwise (· ≤ ·) ∧
      (t.inRun = true → t.keyOk ((key :: rs.map Record.key).getLastD key))) ∧
  (∀ s t : State, s.inRun = false → cfgLegal s.cfg = true → exec .go s = .next t →
    t.keyOk 0#64)

/-- 20_memory.md R61, 45_events.md R140, 10_state.md R21: during a run a step that is no reset moves
no cursor back and changes neither `CFGL` nor the capture, and no step at all takes back a record. -/
def Obligations.NothingGoesBack : Prop :=
  ∀ s t : State, step s = .next t →
    (∃ rs, t.sink = s.sink ++ rs) ∧
    (s.inRun = true → (∀ rest, s.env ≠ .rst :: rest) →
      t.cfgl = s.cfgl ∧ t.cap = s.cap ∧
      ∀ c, s.pos.get c ≤ t.pos.get c ∧ s.hz.get c ≤ t.hz.get c)

/-- 45_events.md R146: the emission sites: a decoder step emits at most one record, and only where
control, gone through the lines that perform no operation, is at one of the seven sites, the record
and the condition being those the site names. At `RS.3` and `RS.9` the condition is the clock's level,
which a state whose clock is in phase has there (`ClockAlternates`), the no-enable fallback's `START`
included (42_resync.md R117); at `GW.18` and `GW.19` the word is completed: all `N` bits are
sampled. -/
def Obligations.EmissionSites : Prop :=
  ∀ s t : State, s.Proper → s.inRun = true → decoderStep s = .next t →
    let u := settle settleFuel s
    t.sink = s.sink ∨
    ∃ r, t.sink = s.sink ++ [r] ∧
      (u.top = some .rs3 ∧ (s.ClockPhase → u.levelOf .clk ≠ u.cpol) ∧
         r = .marker u.cs.val .error ∨
       u.top = some .rs5 ∧ u.present .en = true ∧ r = .error u.es.val u.cs.val ∨
       u.top = some .rs9 ∧ (s.ClockPhase → u.levelOf .clk = u.cpol) ∧ r = .start u.cs.val ∨
       u.top = some .rc10 ∧ u.rt = true ∧ u.raceEmit = true ∧ r = .disable u.rs.val ∨
       (∃ k, u.top = some .gw18 ∧ u.mb.length = u.N ∧ u.mb[u.k.toNat]? = some k ∧
         r = .marker k (if u.mdir = 0#2 then .up else .down)) ∨
       u.top = some .gw19 ∧ u.mb.length = u.N ∧
         r = .result u.fs.val u.pos.clk u.accDout.v u.accDin.v (cfgN u.cfgl) ∨
       u.top = some .gw20 ∧ u.nr = true ∧ r = .disable u.ds.val)

/-- 60_exceptions.md R164, R165 item 3: a pending cancellation is taken only by the poll at `GW.1`,
and `CP` is set only by the host's `CANCEL` and cleared only by `GO` and by reset. -/
def Obligations.CancellationOnlyAtWordStart : Prop :=
  ∀ s t : State, s.Sound →
    (decoderStep s = .next t → t.cp = s.cp) ∧
    (s.inRun = true → decoderStep s = .next t → t.runState = .doneCancel →
      (settle settleFuel s).top = some .gw1 ∧ s.cp = true) ∧
    (step s = .next t → s.inRun = true → (∀ rest, s.env ≠ .rst :: rest) → s.cp = true →
      t.cp = true)

/-- 70_reset_and_hazards.md R193, 43_race_detection.md R124: the clock cursor moves only at `AE.4`,
`RS.6`, `RS.7` and, in a word, at `GW.7`, `GW.13` and `GW.16`, where it crosses no enable
transition. -/
def Obligations.ClockMovesOnlyWhereChecked : Prop :=
  ∀ s t : State, s.Inv → s.inRun = true → decoderStep s = .next t → t.pos.clk ≠ s.pos.clk →
    let u := settle settleFuel s
    u.isAt [.ae4, .rs6, .rs7, .gw7, .gw13, .gw16] ∧
    (u.isAt [.gw7, .gw13, .gw16] → s.present .en = true →
      ∀ e ∈ s.cap.wave.en.edges, ¬ (s.pos.en < e ∧ e ≤ t.pos.clk))

/-! ## Noninterference -/

/-- 70_reset_and_hazards.md R191, 10_state.md R21: what is written to `CFG` during a run makes no
difference to the decoder, which reads only `CFGL`. -/
def Obligations.CfgDoesNotReachTheRun : Prop :=
  ∀ (s t : State) (w : Word), s.Sound → decoderStep s = .next t →
    decoderStep { s with cfg := w } = .next { t with cfg := w }

/-- 20_memory.md R51: an absent channel has no waveform, horizon or cursor that a rule reads: they
make no difference to a decoder step, which does not touch them. -/
def Obligations.AbsentChannelIsUnread : Prop :=
  ∀ (s t : State) (c : Channel) (wave : Waveform) (h : Nat) (p : Sample), s.Sound →
    s.present c = false → decoderStep s = .next t →
    decoderStep { s with
      cap := { s.cap with wave := s.cap.wave.set c wave }
      hz := s.hz.set c h
      pos := s.pos.set c p } =
    .next { t with
      cap := { s.cap with wave := s.cap.wave.set c wave }
      hz := s.hz.set c h
      pos := t.pos.set c p }
end

