-- ==== Sys2Proof/Laws/State.lean ====
section
/-! SUPPORT. What each named update of the state does to each field: one lemma for each, so that no
later proof unfolds a record update. -/

namespace Sys2Proof.Machine

open Sys2Proof

/-! ### `State.performing` -/

section
variable (s : State) (code : BitVec 8)

@[simp] theorem State.performing_cfg : (s.performing code).cfg = s.cfg := rfl
@[simp] theorem State.performing_cfgl : (s.performing code).cfgl = s.cfgl := rfl
@[simp] theorem State.performing_mdir : (s.performing code).mdir = s.mdir := rfl
@[simp] theorem State.performing_cs : (s.performing code).cs = s.cs := rfl
@[simp] theorem State.performing_fs : (s.performing code).fs = s.fs := rfl
@[simp] theorem State.performing_ds : (s.performing code).ds = s.ds := rfl
@[simp] theorem State.performing_es : (s.performing code).es = s.es := rfl
@[simp] theorem State.performing_rs : (s.performing code).rs = s.rs := rfl
@[simp] theorem State.performing_rn : (s.performing code).rn = s.rn := rfl
@[simp] theorem State.performing_nr : (s.performing code).nr = s.nr := rfl
@[simp] theorem State.performing_rt : (s.performing code).rt = s.rt := rfl
@[simp] theorem State.performing_cp : (s.performing code).cp = s.cp := rfl
@[simp] theorem State.performing_i : (s.performing code).i = s.i := rfl
@[simp] theorem State.performing_pos : (s.performing code).pos = s.pos := rfl
@[simp] theorem State.performing_accDout : (s.performing code).accDout = s.accDout := rfl
@[simp] theorem State.performing_accDin : (s.performing code).accDin = s.accDin := rfl
@[simp] theorem State.performing_mb : (s.performing code).mb = s.mb := rfl
@[simp] theorem State.performing_ctlp : (s.performing code).ctlp = s.ctlp := rfl
@[simp] theorem State.performing_runState : (s.performing code).runState = s.runState.resumed := rfl
@[simp] theorem State.performing_cause : (s.performing code).cause = s.cause := rfl
@[simp] theorem State.performing_op : (s.performing code).op = code := rfl
@[simp] theorem State.performing_ansBit : (s.performing code).ansBit = s.ansBit := rfl
@[simp] theorem State.performing_ansPos : (s.performing code).ansPos = s.ansPos := rfl
@[simp] theorem State.performing_k : (s.performing code).k = s.k := rfl
@[simp] theorem State.performing_raceEmit : (s.performing code).raceEmit = s.raceEmit := rfl
@[simp] theorem State.performing_hostData : (s.performing code).hostData = s.hostData := rfl
@[simp] theorem State.performing_hostErr : (s.performing code).hostErr = s.hostErr := rfl
@[simp] theorem State.performing_cap : (s.performing code).cap = s.cap := rfl
@[simp] theorem State.performing_hz : (s.performing code).hz = s.hz := rfl
@[simp] theorem State.performing_sink : (s.performing code).sink = s.sink := rfl
@[simp] theorem State.performing_env : (s.performing code).env = s.env := rfl

end

/-! ### `State.waitAt` -/

section
variable (s : State) (code : BitVec 8)

@[simp] theorem State.waitAt_cfg : (s.waitAt code).cfg = s.cfg := rfl
@[simp] theorem State.waitAt_cfgl : (s.waitAt code).cfgl = s.cfgl := rfl
@[simp] theorem State.waitAt_mdir : (s.waitAt code).mdir = s.mdir := rfl
@[simp] theorem State.waitAt_cs : (s.waitAt code).cs = s.cs := rfl
@[simp] theorem State.waitAt_fs : (s.waitAt code).fs = s.fs := rfl
@[simp] theorem State.waitAt_ds : (s.waitAt code).ds = s.ds := rfl
@[simp] theorem State.waitAt_es : (s.waitAt code).es = s.es := rfl
@[simp] theorem State.waitAt_rs : (s.waitAt code).rs = s.rs := rfl
@[simp] theorem State.waitAt_rn : (s.waitAt code).rn = s.rn := rfl
@[simp] theorem State.waitAt_nr : (s.waitAt code).nr = s.nr := rfl
@[simp] theorem State.waitAt_rt : (s.waitAt code).rt = s.rt := rfl
@[simp] theorem State.waitAt_cp : (s.waitAt code).cp = s.cp := rfl
@[simp] theorem State.waitAt_i : (s.waitAt code).i = s.i := rfl
@[simp] theorem State.waitAt_pos : (s.waitAt code).pos = s.pos := rfl
@[simp] theorem State.waitAt_accDout : (s.waitAt code).accDout = s.accDout := rfl
@[simp] theorem State.waitAt_accDin : (s.waitAt code).accDin = s.accDin := rfl
@[simp] theorem State.waitAt_mb : (s.waitAt code).mb = s.mb := rfl
@[simp] theorem State.waitAt_ctlp : (s.waitAt code).ctlp = s.ctlp := rfl
@[simp] theorem State.waitAt_runState : (s.waitAt code).runState = .waiting := rfl
@[simp] theorem State.waitAt_cause : (s.waitAt code).cause = s.cause := rfl
@[simp] theorem State.waitAt_op : (s.waitAt code).op = code := rfl
@[simp] theorem State.waitAt_ansBit : (s.waitAt code).ansBit = s.ansBit := rfl
@[simp] theorem State.waitAt_ansPos : (s.waitAt code).ansPos = s.ansPos := rfl
@[simp] theorem State.waitAt_k : (s.waitAt code).k = s.k := rfl
@[simp] theorem State.waitAt_raceEmit : (s.waitAt code).raceEmit = s.raceEmit := rfl
@[simp] theorem State.waitAt_hostData : (s.waitAt code).hostData = s.hostData := rfl
@[simp] theorem State.waitAt_hostErr : (s.waitAt code).hostErr = s.hostErr := rfl
@[simp] theorem State.waitAt_cap : (s.waitAt code).cap = s.cap := rfl
@[simp] theorem State.waitAt_hz : (s.waitAt code).hz = s.hz := rfl
@[simp] theorem State.waitAt_sink : (s.waitAt code).sink = s.sink := rfl
@[simp] theorem State.waitAt_env : (s.waitAt code).env = s.env := rfl

end

/-! ### `State.endRun` -/

section
variable (s : State) (st : RunState) (c : Cause)

@[simp] theorem State.endRun_cfg : (s.endRun st c).cfg = s.cfg := rfl
@[simp] theorem State.endRun_cfgl : (s.endRun st c).cfgl = s.cfgl := rfl
@[simp] theorem State.endRun_mdir : (s.endRun st c).mdir = s.mdir := rfl
@[simp] theorem State.endRun_cs : (s.endRun st c).cs = s.cs := rfl
@[simp] theorem State.endRun_fs : (s.endRun st c).fs = s.fs := rfl
@[simp] theorem State.endRun_ds : (s.endRun st c).ds = s.ds := rfl
@[simp] theorem State.endRun_es : (s.endRun st c).es = s.es := rfl
@[simp] theorem State.endRun_rs : (s.endRun st c).rs = s.rs := rfl
@[simp] theorem State.endRun_rn : (s.endRun st c).rn = s.rn := rfl
@[simp] theorem State.endRun_nr : (s.endRun st c).nr = s.nr := rfl
@[simp] theorem State.endRun_rt : (s.endRun st c).rt = s.rt := rfl
@[simp] theorem State.endRun_cp : (s.endRun st c).cp = s.cp := rfl
@[simp] theorem State.endRun_i : (s.endRun st c).i = s.i := rfl
@[simp] theorem State.endRun_pos : (s.endRun st c).pos = s.pos := rfl
@[simp] theorem State.endRun_accDout : (s.endRun st c).accDout = s.accDout := rfl
@[simp] theorem State.endRun_accDin : (s.endRun st c).accDin = s.accDin := rfl
@[simp] theorem State.endRun_mb : (s.endRun st c).mb = s.mb := rfl
@[simp] theorem State.endRun_ctlp : (s.endRun st c).ctlp = [] := rfl
@[simp] theorem State.endRun_runState : (s.endRun st c).runState = st := rfl
@[simp] theorem State.endRun_cause : (s.endRun st c).cause = c := rfl
@[simp] theorem State.endRun_op : (s.endRun st c).op = s.op := rfl
@[simp] theorem State.endRun_ansBit : (s.endRun st c).ansBit = s.ansBit := rfl
@[simp] theorem State.endRun_ansPos : (s.endRun st c).ansPos = s.ansPos := rfl
@[simp] theorem State.endRun_k : (s.endRun st c).k = s.k := rfl
@[simp] theorem State.endRun_raceEmit : (s.endRun st c).raceEmit = s.raceEmit := rfl
@[simp] theorem State.endRun_hostData : (s.endRun st c).hostData = s.hostData := rfl
@[simp] theorem State.endRun_hostErr : (s.endRun st c).hostErr = s.hostErr := rfl
@[simp] theorem State.endRun_cap : (s.endRun st c).cap = s.cap := rfl
@[simp] theorem State.endRun_hz : (s.endRun st c).hz = s.hz := rfl
@[simp] theorem State.endRun_sink : (s.endRun st c).sink = s.sink := rfl
@[simp] theorem State.endRun_env : (s.endRun st c).env = s.env := rfl

end

/-! ### `State.internalFault` -/

section
variable (s : State) (code : BitVec 8)

@[simp] theorem State.internalFault_cfg : (s.internalFault code).cfg = s.cfg := rfl
@[simp] theorem State.internalFault_cfgl : (s.internalFault code).cfgl = s.cfgl := rfl
@[simp] theorem State.internalFault_mdir : (s.internalFault code).mdir = s.mdir := rfl
@[simp] theorem State.internalFault_cs : (s.internalFault code).cs = s.cs := rfl
@[simp] theorem State.internalFault_fs : (s.internalFault code).fs = s.fs := rfl
@[simp] theorem State.internalFault_ds : (s.internalFault code).ds = s.ds := rfl
@[simp] theorem State.internalFault_es : (s.internalFault code).es = s.es := rfl
@[simp] theorem State.internalFault_rs : (s.internalFault code).rs = s.rs := rfl
@[simp] theorem State.internalFault_rn : (s.internalFault code).rn = s.rn := rfl
@[simp] theorem State.internalFault_nr : (s.internalFault code).nr = s.nr := rfl
@[simp] theorem State.internalFault_rt : (s.internalFault code).rt = s.rt := rfl
@[simp] theorem State.internalFault_cp : (s.internalFault code).cp = s.cp := rfl
@[simp] theorem State.internalFault_i : (s.internalFault code).i = s.i := rfl
@[simp] theorem State.internalFault_pos : (s.internalFault code).pos = s.pos := rfl
@[simp] theorem State.internalFault_accDout : (s.internalFault code).accDout = s.accDout := rfl
@[simp] theorem State.internalFault_accDin : (s.internalFault code).accDin = s.accDin := rfl
@[simp] theorem State.internalFault_mb : (s.internalFault code).mb = s.mb := rfl
@[simp] theorem State.internalFault_ctlp : (s.internalFault code).ctlp = [] := rfl
@[simp] theorem State.internalFault_runState : (s.internalFault code).runState = .fault := rfl
@[simp] theorem State.internalFault_cause : (s.internalFault code).cause = .internalFault := rfl
@[simp] theorem State.internalFault_op : (s.internalFault code).op = code := rfl
@[simp] theorem State.internalFault_ansBit : (s.internalFault code).ansBit = s.ansBit := rfl
@[simp] theorem State.internalFault_ansPos : (s.internalFault code).ansPos = s.ansPos := rfl
@[simp] theorem State.internalFault_k : (s.internalFault code).k = s.k := rfl
@[simp] theorem State.internalFault_raceEmit : (s.internalFault code).raceEmit = s.raceEmit := rfl
@[simp] theorem State.internalFault_hostData : (s.internalFault code).hostData = s.hostData := rfl
@[simp] theorem State.internalFault_hostErr : (s.internalFault code).hostErr = s.hostErr := rfl
@[simp] theorem State.internalFault_cap : (s.internalFault code).cap = s.cap := rfl
@[simp] theorem State.internalFault_hz : (s.internalFault code).hz = s.hz := rfl
@[simp] theorem State.internalFault_sink : (s.internalFault code).sink = s.sink := rfl
@[simp] theorem State.internalFault_env : (s.internalFault code).env = s.env := rfl

end

/-! ### `State.record` -/

section
variable (s : State) (c : Cause)

@[simp] theorem State.record_cfg : (s.record c).cfg = s.cfg := rfl
@[simp] theorem State.record_cfgl : (s.record c).cfgl = s.cfgl := rfl
@[simp] theorem State.record_mdir : (s.record c).mdir = s.mdir := rfl
@[simp] theorem State.record_cs : (s.record c).cs = s.cs := rfl
@[simp] theorem State.record_fs : (s.record c).fs = s.fs := rfl
@[simp] theorem State.record_ds : (s.record c).ds = s.ds := rfl
@[simp] theorem State.record_es : (s.record c).es = s.es := rfl
@[simp] theorem State.record_rs : (s.record c).rs = s.rs := rfl
@[simp] theorem State.record_rn : (s.record c).rn = s.rn := rfl
@[simp] theorem State.record_nr : (s.record c).nr = s.nr := rfl
@[simp] theorem State.record_rt : (s.record c).rt = s.rt := rfl
@[simp] theorem State.record_cp : (s.record c).cp = s.cp := rfl
@[simp] theorem State.record_i : (s.record c).i = s.i := rfl
@[simp] theorem State.record_pos : (s.record c).pos = s.pos := rfl
@[simp] theorem State.record_accDout : (s.record c).accDout = s.accDout := rfl
@[simp] theorem State.record_accDin : (s.record c).accDin = s.accDin := rfl
@[simp] theorem State.record_mb : (s.record c).mb = s.mb := rfl
@[simp] theorem State.record_ctlp : (s.record c).ctlp = s.ctlp := rfl
@[simp] theorem State.record_runState : (s.record c).runState = s.runState := rfl
@[simp] theorem State.record_cause : (s.record c).cause = c := rfl
@[simp] theorem State.record_op : (s.record c).op = s.op := rfl
@[simp] theorem State.record_ansBit : (s.record c).ansBit = s.ansBit := rfl
@[simp] theorem State.record_ansPos : (s.record c).ansPos = s.ansPos := rfl
@[simp] theorem State.record_k : (s.record c).k = s.k := rfl
@[simp] theorem State.record_raceEmit : (s.record c).raceEmit = s.raceEmit := rfl
@[simp] theorem State.record_hostData : (s.record c).hostData = s.hostData := rfl
@[simp] theorem State.record_hostErr : (s.record c).hostErr = s.hostErr := rfl
@[simp] theorem State.record_cap : (s.record c).cap = s.cap := rfl
@[simp] theorem State.record_hz : (s.record c).hz = s.hz := rfl
@[simp] theorem State.record_sink : (s.record c).sink = s.sink := rfl
@[simp] theorem State.record_env : (s.record c).env = s.env := rfl

end

/-! ### `State.goto` -/

section
variable (s : State) (l : Label)

@[simp] theorem State.goto_cfg : (s.goto l).cfg = s.cfg := rfl
@[simp] theorem State.goto_cfgl : (s.goto l).cfgl = s.cfgl := rfl
@[simp] theorem State.goto_mdir : (s.goto l).mdir = s.mdir := rfl
@[simp] theorem State.goto_cs : (s.goto l).cs = s.cs := rfl
@[simp] theorem State.goto_fs : (s.goto l).fs = s.fs := rfl
@[simp] theorem State.goto_ds : (s.goto l).ds = s.ds := rfl
@[simp] theorem State.goto_es : (s.goto l).es = s.es := rfl
@[simp] theorem State.goto_rs : (s.goto l).rs = s.rs := rfl
@[simp] theorem State.goto_rn : (s.goto l).rn = s.rn := rfl
@[simp] theorem State.goto_nr : (s.goto l).nr = s.nr := rfl
@[simp] theorem State.goto_rt : (s.goto l).rt = s.rt := rfl
@[simp] theorem State.goto_cp : (s.goto l).cp = s.cp := rfl
@[simp] theorem State.goto_i : (s.goto l).i = s.i := rfl
@[simp] theorem State.goto_pos : (s.goto l).pos = s.pos := rfl
@[simp] theorem State.goto_accDout : (s.goto l).accDout = s.accDout := rfl
@[simp] theorem State.goto_accDin : (s.goto l).accDin = s.accDin := rfl
@[simp] theorem State.goto_mb : (s.goto l).mb = s.mb := rfl
@[simp] theorem State.goto_ctlp : (s.goto l).ctlp = .line l :: s.ctlp.tail := rfl
@[simp] theorem State.goto_runState : (s.goto l).runState = s.runState := rfl
@[simp] theorem State.goto_cause : (s.goto l).cause = s.cause := rfl
@[simp] theorem State.goto_op : (s.goto l).op = s.op := rfl
@[simp] theorem State.goto_ansBit : (s.goto l).ansBit = s.ansBit := rfl
@[simp] theorem State.goto_ansPos : (s.goto l).ansPos = s.ansPos := rfl
@[simp] theorem State.goto_k : (s.goto l).k = s.k := rfl
@[simp] theorem State.goto_raceEmit : (s.goto l).raceEmit = s.raceEmit := rfl
@[simp] theorem State.goto_hostData : (s.goto l).hostData = s.hostData := rfl
@[simp] theorem State.goto_hostErr : (s.goto l).hostErr = s.hostErr := rfl
@[simp] theorem State.goto_cap : (s.goto l).cap = s.cap := rfl
@[simp] theorem State.goto_hz : (s.goto l).hz = s.hz := rfl
@[simp] theorem State.goto_sink : (s.goto l).sink = s.sink := rfl
@[simp] theorem State.goto_env : (s.goto l).env = s.env := rfl

end

/-! ### `State.ret` -/

section
variable (s : State)

@[simp] theorem State.ret_cfg : s.ret.cfg = s.cfg := rfl
@[simp] theorem State.ret_cfgl : s.ret.cfgl = s.cfgl := rfl
@[simp] theorem State.ret_mdir : s.ret.mdir = s.mdir := rfl
@[simp] theorem State.ret_cs : s.ret.cs = s.cs := rfl
@[simp] theorem State.ret_fs : s.ret.fs = s.fs := rfl
@[simp] theorem State.ret_ds : s.ret.ds = s.ds := rfl
@[simp] theorem State.ret_es : s.ret.es = s.es := rfl
@[simp] theorem State.ret_rs : s.ret.rs = s.rs := rfl
@[simp] theorem State.ret_rn : s.ret.rn = s.rn := rfl
@[simp] theorem State.ret_nr : s.ret.nr = s.nr := rfl
@[simp] theorem State.ret_rt : s.ret.rt = s.rt := rfl
@[simp] theorem State.ret_cp : s.ret.cp = s.cp := rfl
@[simp] theorem State.ret_i : s.ret.i = s.i := rfl
@[simp] theorem State.ret_pos : s.ret.pos = s.pos := rfl
@[simp] theorem State.ret_accDout : s.ret.accDout = s.accDout := rfl
@[simp] theorem State.ret_accDin : s.ret.accDin = s.accDin := rfl
@[simp] theorem State.ret_mb : s.ret.mb = s.mb := rfl
@[simp] theorem State.ret_ctlp : s.ret.ctlp = s.ctlp.tail := rfl
@[simp] theorem State.ret_runState : s.ret.runState = s.runState := rfl
@[simp] theorem State.ret_cause : s.ret.cause = s.cause := rfl
@[simp] theorem State.ret_op : s.ret.op = s.op := rfl
@[simp] theorem State.ret_ansBit : s.ret.ansBit = s.ansBit := rfl
@[simp] theorem State.ret_ansPos : s.ret.ansPos = s.ansPos := rfl
@[simp] theorem State.ret_k : s.ret.k = s.k := rfl
@[simp] theorem State.ret_raceEmit : s.ret.raceEmit = s.raceEmit := rfl
@[simp] theorem State.ret_hostData : s.ret.hostData = s.hostData := rfl
@[simp] theorem State.ret_hostErr : s.ret.hostErr = s.hostErr := rfl
@[simp] theorem State.ret_cap : s.ret.cap = s.cap := rfl
@[simp] theorem State.ret_hz : s.ret.hz = s.hz := rfl
@[simp] theorem State.ret_sink : s.ret.sink = s.sink := rfl
@[simp] theorem State.ret_env : s.ret.env = s.env := rfl

end

/-! ### `State.toMarkers` -/

section
variable (s : State)

@[simp] theorem State.toMarkers_cfg : s.toMarkers.cfg = s.cfg := rfl
@[simp] theorem State.toMarkers_cfgl : s.toMarkers.cfgl = s.cfgl := rfl
@[simp] theorem State.toMarkers_mdir : s.toMarkers.mdir = s.mdir := rfl
@[simp] theorem State.toMarkers_cs : s.toMarkers.cs = s.cs := rfl
@[simp] theorem State.toMarkers_fs : s.toMarkers.fs = s.fs := rfl
@[simp] theorem State.toMarkers_ds : s.toMarkers.ds = s.ds := rfl
@[simp] theorem State.toMarkers_es : s.toMarkers.es = s.es := rfl
@[simp] theorem State.toMarkers_rs : s.toMarkers.rs = s.rs := rfl
@[simp] theorem State.toMarkers_rn : s.toMarkers.rn = s.rn := rfl
@[simp] theorem State.toMarkers_nr : s.toMarkers.nr = s.nr := rfl
@[simp] theorem State.toMarkers_rt : s.toMarkers.rt = s.rt := rfl
@[simp] theorem State.toMarkers_cp : s.toMarkers.cp = s.cp := rfl
@[simp] theorem State.toMarkers_i : s.toMarkers.i = s.i := rfl
@[simp] theorem State.toMarkers_pos : s.toMarkers.pos = s.pos := rfl
@[simp] theorem State.toMarkers_accDout : s.toMarkers.accDout = s.accDout := rfl
@[simp] theorem State.toMarkers_accDin : s.toMarkers.accDin = s.accDin := rfl
@[simp] theorem State.toMarkers_mb : s.toMarkers.mb = s.mb := rfl
@[simp] theorem State.toMarkers_ctlp : s.toMarkers.ctlp = .line .gw18 :: s.ctlp.tail := rfl
@[simp] theorem State.toMarkers_runState : s.toMarkers.runState = s.runState := rfl
@[simp] theorem State.toMarkers_cause : s.toMarkers.cause = s.cause := rfl
@[simp] theorem State.toMarkers_op : s.toMarkers.op = s.op := rfl
@[simp] theorem State.toMarkers_ansBit : s.toMarkers.ansBit = s.ansBit := rfl
@[simp] theorem State.toMarkers_ansPos : s.toMarkers.ansPos = s.ansPos := rfl
@[simp] theorem State.toMarkers_k : s.toMarkers.k = 0#7 := rfl
@[simp] theorem State.toMarkers_raceEmit : s.toMarkers.raceEmit = s.raceEmit := rfl
@[simp] theorem State.toMarkers_hostData : s.toMarkers.hostData = s.hostData := rfl
@[simp] theorem State.toMarkers_hostErr : s.toMarkers.hostErr = s.hostErr := rfl
@[simp] theorem State.toMarkers_cap : s.toMarkers.cap = s.cap := rfl
@[simp] theorem State.toMarkers_hz : s.toMarkers.hz = s.hz := rfl
@[simp] theorem State.toMarkers_sink : s.toMarkers.sink = s.sink := rfl
@[simp] theorem State.toMarkers_env : s.toMarkers.env = s.env := rfl

end

/-! ### `State.emit` -/

section
variable (s : State) (code : BitVec 8) (r : Record)

@[simp] theorem State.emit_cfg : (s.emit code r).cfg = s.cfg := rfl
@[simp] theorem State.emit_cfgl : (s.emit code r).cfgl = s.cfgl := rfl
@[simp] theorem State.emit_mdir : (s.emit code r).mdir = s.mdir := rfl
@[simp] theorem State.emit_cs : (s.emit code r).cs = s.cs := rfl
@[simp] theorem State.emit_fs : (s.emit code r).fs = s.fs := rfl
@[simp] theorem State.emit_ds : (s.emit code r).ds = s.ds := rfl
@[simp] theorem State.emit_es : (s.emit code r).es = s.es := rfl
@[simp] theorem State.emit_rs : (s.emit code r).rs = s.rs := rfl
@[simp] theorem State.emit_rn : (s.emit code r).rn = s.rn := rfl
@[simp] theorem State.emit_nr : (s.emit code r).nr = s.nr := rfl
@[simp] theorem State.emit_rt : (s.emit code r).rt = s.rt := rfl
@[simp] theorem State.emit_cp : (s.emit code r).cp = s.cp := rfl
@[simp] theorem State.emit_i : (s.emit code r).i = s.i := rfl
@[simp] theorem State.emit_pos : (s.emit code r).pos = s.pos := rfl
@[simp] theorem State.emit_accDout : (s.emit code r).accDout = s.accDout := rfl
@[simp] theorem State.emit_accDin : (s.emit code r).accDin = s.accDin := rfl
@[simp] theorem State.emit_mb : (s.emit code r).mb = s.mb := rfl
@[simp] theorem State.emit_ctlp : (s.emit code r).ctlp = s.ctlp := rfl
@[simp] theorem State.emit_runState : (s.emit code r).runState = s.runState.resumed := rfl
@[simp] theorem State.emit_cause : (s.emit code r).cause = s.cause := rfl
@[simp] theorem State.emit_op : (s.emit code r).op = code := rfl
@[simp] theorem State.emit_ansBit : (s.emit code r).ansBit = s.ansBit := rfl
@[simp] theorem State.emit_ansPos : (s.emit code r).ansPos = s.ansPos := rfl
@[simp] theorem State.emit_k : (s.emit code r).k = s.k := rfl
@[simp] theorem State.emit_raceEmit : (s.emit code r).raceEmit = s.raceEmit := rfl
@[simp] theorem State.emit_hostData : (s.emit code r).hostData = s.hostData := rfl
@[simp] theorem State.emit_hostErr : (s.emit code r).hostErr = s.hostErr := rfl
@[simp] theorem State.emit_cap : (s.emit code r).cap = s.cap := rfl
@[simp] theorem State.emit_hz : (s.emit code r).hz = s.hz := rfl
@[simp] theorem State.emit_sink : (s.emit code r).sink = s.sink ++ [r] := rfl
@[simp] theorem State.emit_env : (s.emit code r).env = s.env := rfl

end

/-! ### `State.accepted` -/

section
variable (s : State)

@[simp] theorem State.accepted_cfg : s.accepted.cfg = s.cfg := rfl
@[simp] theorem State.accepted_cfgl : s.accepted.cfgl = s.cfgl := rfl
@[simp] theorem State.accepted_mdir : s.accepted.mdir = s.mdir := rfl
@[simp] theorem State.accepted_cs : s.accepted.cs = s.cs := rfl
@[simp] theorem State.accepted_fs : s.accepted.fs = s.fs := rfl
@[simp] theorem State.accepted_ds : s.accepted.ds = s.ds := rfl
@[simp] theorem State.accepted_es : s.accepted.es = s.es := rfl
@[simp] theorem State.accepted_rs : s.accepted.rs = s.rs := rfl
@[simp] theorem State.accepted_rn : s.accepted.rn = s.rn := rfl
@[simp] theorem State.accepted_nr : s.accepted.nr = s.nr := rfl
@[simp] theorem State.accepted_rt : s.accepted.rt = s.rt := rfl
@[simp] theorem State.accepted_cp : s.accepted.cp = s.cp := rfl
@[simp] theorem State.accepted_i : s.accepted.i = s.i := rfl
@[simp] theorem State.accepted_pos : s.accepted.pos = s.pos := rfl
@[simp] theorem State.accepted_accDout : s.accepted.accDout = s.accDout := rfl
@[simp] theorem State.accepted_accDin : s.accepted.accDin = s.accDin := rfl
@[simp] theorem State.accepted_mb : s.accepted.mb = s.mb := rfl
@[simp] theorem State.accepted_ctlp : s.accepted.ctlp = s.ctlp := rfl
@[simp] theorem State.accepted_runState : s.accepted.runState = s.runState := rfl
@[simp] theorem State.accepted_cause : s.accepted.cause = s.cause := rfl
@[simp] theorem State.accepted_op : s.accepted.op = s.op := rfl
@[simp] theorem State.accepted_ansBit : s.accepted.ansBit = s.ansBit := rfl
@[simp] theorem State.accepted_ansPos : s.accepted.ansPos = s.ansPos := rfl
@[simp] theorem State.accepted_k : s.accepted.k = s.k := rfl
@[simp] theorem State.accepted_raceEmit : s.accepted.raceEmit = s.raceEmit := rfl
@[simp] theorem State.accepted_hostData : s.accepted.hostData = s.hostData := rfl
@[simp] theorem State.accepted_hostErr : s.accepted.hostErr = false := rfl
@[simp] theorem State.accepted_cap : s.accepted.cap = s.cap := rfl
@[simp] theorem State.accepted_hz : s.accepted.hz = s.hz := rfl
@[simp] theorem State.accepted_sink : s.accepted.sink = s.sink := rfl
@[simp] theorem State.accepted_env : s.accepted.env = s.env := rfl

end

/-! ### `State.setReg` -/

section
variable (s : State) (r : SampleReg) (v : Sample)

@[simp] theorem State.setReg_cfg : (s.setReg r v).cfg = s.cfg := by cases r <;> rfl
@[simp] theorem State.setReg_cfgl : (s.setReg r v).cfgl = s.cfgl := by cases r <;> rfl
@[simp] theorem State.setReg_mdir : (s.setReg r v).mdir = s.mdir := by cases r <;> rfl
@[simp] theorem State.setReg_nr : (s.setReg r v).nr = s.nr := by cases r <;> rfl
@[simp] theorem State.setReg_rt : (s.setReg r v).rt = s.rt := by cases r <;> rfl
@[simp] theorem State.setReg_cp : (s.setReg r v).cp = s.cp := by cases r <;> rfl
@[simp] theorem State.setReg_i : (s.setReg r v).i = s.i := by cases r <;> rfl
@[simp] theorem State.setReg_pos : (s.setReg r v).pos = s.pos := by cases r <;> rfl
@[simp] theorem State.setReg_accDout : (s.setReg r v).accDout = s.accDout := by cases r <;> rfl
@[simp] theorem State.setReg_accDin : (s.setReg r v).accDin = s.accDin := by cases r <;> rfl
@[simp] theorem State.setReg_mb : (s.setReg r v).mb = s.mb := by cases r <;> rfl
@[simp] theorem State.setReg_ctlp : (s.setReg r v).ctlp = s.ctlp := by cases r <;> rfl
@[simp] theorem State.setReg_runState : (s.setReg r v).runState = s.runState := by cases r <;> rfl
@[simp] theorem State.setReg_cause : (s.setReg r v).cause = s.cause := by cases r <;> rfl
@[simp] theorem State.setReg_op : (s.setReg r v).op = s.op := by cases r <;> rfl
@[simp] theorem State.setReg_ansBit : (s.setReg r v).ansBit = s.ansBit := by cases r <;> rfl
@[simp] theorem State.setReg_ansPos : (s.setReg r v).ansPos = s.ansPos := by cases r <;> rfl
@[simp] theorem State.setReg_k : (s.setReg r v).k = s.k := by cases r <;> rfl
@[simp] theorem State.setReg_raceEmit : (s.setReg r v).raceEmit = s.raceEmit := by cases r <;> rfl
@[simp] theorem State.setReg_hostData : (s.setReg r v).hostData = s.hostData := by cases r <;> rfl
@[simp] theorem State.setReg_hostErr : (s.setReg r v).hostErr = s.hostErr := by cases r <;> rfl
@[simp] theorem State.setReg_cap : (s.setReg r v).cap = s.cap := by cases r <;> rfl
@[simp] theorem State.setReg_hz : (s.setReg r v).hz = s.hz := by cases r <;> rfl
@[simp] theorem State.setReg_sink : (s.setReg r v).sink = s.sink := by cases r <;> rfl
@[simp] theorem State.setReg_env : (s.setReg r v).env = s.env := by cases r <;> rfl

end

/-! ### `State.take` -/

section
variable (s : State) (r : SampleReg)

@[simp] theorem State.take_cfg : (s.take r).cfg = s.cfg := by cases r <;> rfl
@[simp] theorem State.take_cfgl : (s.take r).cfgl = s.cfgl := by cases r <;> rfl
@[simp] theorem State.take_mdir : (s.take r).mdir = s.mdir := by cases r <;> rfl
@[simp] theorem State.take_nr : (s.take r).nr = s.nr := by cases r <;> rfl
@[simp] theorem State.take_rt : (s.take r).rt = s.rt := by cases r <;> rfl
@[simp] theorem State.take_cp : (s.take r).cp = s.cp := by cases r <;> rfl
@[simp] theorem State.take_i : (s.take r).i = s.i := by cases r <;> rfl
@[simp] theorem State.take_pos : (s.take r).pos = s.pos := by cases r <;> rfl
@[simp] theorem State.take_accDout : (s.take r).accDout = s.accDout := by cases r <;> rfl
@[simp] theorem State.take_accDin : (s.take r).accDin = s.accDin := by cases r <;> rfl
@[simp] theorem State.take_mb : (s.take r).mb = s.mb := by cases r <;> rfl
@[simp] theorem State.take_ctlp : (s.take r).ctlp = s.ctlp := by cases r <;> rfl
@[simp] theorem State.take_runState : (s.take r).runState = s.runState := by cases r <;> rfl
@[simp] theorem State.take_cause : (s.take r).cause = s.cause := by cases r <;> rfl
@[simp] theorem State.take_op : (s.take r).op = s.op := by cases r <;> rfl
@[simp] theorem State.take_ansBit : (s.take r).ansBit = s.ansBit := by cases r <;> rfl
@[simp] theorem State.take_ansPos : (s.take r).ansPos = s.ansPos := by cases r <;> rfl
@[simp] theorem State.take_k : (s.take r).k = s.k := by cases r <;> rfl
@[simp] theorem State.take_raceEmit : (s.take r).raceEmit = s.raceEmit := by cases r <;> rfl
@[simp] theorem State.take_hostData : (s.take r).hostData = s.hostData := by cases r <;> rfl
@[simp] theorem State.take_hostErr : (s.take r).hostErr = s.hostErr := by cases r <;> rfl
@[simp] theorem State.take_cap : (s.take r).cap = s.cap := by cases r <;> rfl
@[simp] theorem State.take_hz : (s.take r).hz = s.hz := by cases r <;> rfl
@[simp] theorem State.take_sink : (s.take r).sink = s.sink := by cases r <;> rfl
@[simp] theorem State.take_env : (s.take r).env = s.env := by cases r <;> rfl

end

/-! ### `State.setAcc` -/

section
variable (s : State) (a : AccSel) (x : Accumulator)

@[simp] theorem State.setAcc_cfg : (s.setAcc a x).cfg = s.cfg := by cases a <;> rfl
@[simp] theorem State.setAcc_cfgl : (s.setAcc a x).cfgl = s.cfgl := by cases a <;> rfl
@[simp] theorem State.setAcc_mdir : (s.setAcc a x).mdir = s.mdir := by cases a <;> rfl
@[simp] theorem State.setAcc_cs : (s.setAcc a x).cs = s.cs := by cases a <;> rfl
@[simp] theorem State.setAcc_fs : (s.setAcc a x).fs = s.fs := by cases a <;> rfl
@[simp] theorem State.setAcc_ds : (s.setAcc a x).ds = s.ds := by cases a <;> rfl
@[simp] theorem State.setAcc_es : (s.setAcc a x).es = s.es := by cases a <;> rfl
@[simp] theorem State.setAcc_rs : (s.setAcc a x).rs = s.rs := by cases a <;> rfl
@[simp] theorem State.setAcc_rn : (s.setAcc a x).rn = s.rn := by cases a <;> rfl
@[simp] theorem State.setAcc_nr : (s.setAcc a x).nr = s.nr := by cases a <;> rfl
@[simp] theorem State.setAcc_rt : (s.setAcc a x).rt = s.rt := by cases a <;> rfl
@[simp] theorem State.setAcc_cp : (s.setAcc a x).cp = s.cp := by cases a <;> rfl
@[simp] theorem State.setAcc_i : (s.setAcc a x).i = s.i := by cases a <;> rfl
@[simp] theorem State.setAcc_pos : (s.setAcc a x).pos = s.pos := by cases a <;> rfl
@[simp] theorem State.setAcc_mb : (s.setAcc a x).mb = s.mb := by cases a <;> rfl
@[simp] theorem State.setAcc_ctlp : (s.setAcc a x).ctlp = s.ctlp := by cases a <;> rfl
@[simp] theorem State.setAcc_runState : (s.setAcc a x).runState = s.runState := by cases a <;> rfl
@[simp] theorem State.setAcc_cause : (s.setAcc a x).cause = s.cause := by cases a <;> rfl
@[simp] theorem State.setAcc_op : (s.setAcc a x).op = s.op := by cases a <;> rfl
@[simp] theorem State.setAcc_ansBit : (s.setAcc a x).ansBit = s.ansBit := by cases a <;> rfl
@[simp] theorem State.setAcc_ansPos : (s.setAcc a x).ansPos = s.ansPos := by cases a <;> rfl
@[simp] theorem State.setAcc_k : (s.setAcc a x).k = s.k := by cases a <;> rfl
@[simp] theorem State.setAcc_raceEmit : (s.setAcc a x).raceEmit = s.raceEmit := by cases a <;> rfl
@[simp] theorem State.setAcc_hostData : (s.setAcc a x).hostData = s.hostData := by cases a <;> rfl
@[simp] theorem State.setAcc_hostErr : (s.setAcc a x).hostErr = s.hostErr := by cases a <;> rfl
@[simp] theorem State.setAcc_cap : (s.setAcc a x).cap = s.cap := by cases a <;> rfl
@[simp] theorem State.setAcc_hz : (s.setAcc a x).hz = s.hz := by cases a <;> rfl
@[simp] theorem State.setAcc_sink : (s.setAcc a x).sink = s.sink := by cases a <;> rfl
@[simp] theorem State.setAcc_env : (s.setAcc a x).env = s.env := by cases a <;> rfl

end

/-! ### `State.enter` -/

section
variable (s : State) (l : Label)

@[simp] theorem State.enter_cfg : (s.enter l).cfg = s.cfg := by unfold State.enter; split <;> rfl
@[simp] theorem State.enter_cfgl : (s.enter l).cfgl = s.cfgl := by unfold State.enter; split <;> rfl
@[simp] theorem State.enter_mdir : (s.enter l).mdir = s.mdir := by unfold State.enter; split <;> rfl
@[simp] theorem State.enter_cs : (s.enter l).cs = s.cs := by unfold State.enter; split <;> rfl
@[simp] theorem State.enter_fs : (s.enter l).fs = s.fs := by unfold State.enter; split <;> rfl
@[simp] theorem State.enter_ds : (s.enter l).ds = s.ds := by unfold State.enter; split <;> rfl
@[simp] theorem State.enter_es : (s.enter l).es = s.es := by unfold State.enter; split <;> rfl
@[simp] theorem State.enter_rs : (s.enter l).rs = s.rs := by unfold State.enter; split <;> rfl
@[simp] theorem State.enter_rn : (s.enter l).rn = s.rn := by unfold State.enter; split <;> rfl
@[simp] theorem State.enter_nr : (s.enter l).nr = s.nr := by unfold State.enter; split <;> rfl
@[simp] theorem State.enter_rt : (s.enter l).rt = s.rt := by unfold State.enter; split <;> rfl
@[simp] theorem State.enter_cp : (s.enter l).cp = s.cp := by unfold State.enter; split <;> rfl
@[simp] theorem State.enter_i : (s.enter l).i = s.i := by unfold State.enter; split <;> rfl
@[simp] theorem State.enter_pos : (s.enter l).pos = s.pos := by unfold State.enter; split <;> rfl
@[simp] theorem State.enter_accDout : (s.enter l).accDout = s.accDout := by unfold State.enter; split <;> rfl
@[simp] theorem State.enter_accDin : (s.enter l).accDin = s.accDin := by unfold State.enter; split <;> rfl
@[simp] theorem State.enter_mb : (s.enter l).mb = s.mb := by unfold State.enter; split <;> rfl
@[simp] theorem State.enter_op : (s.enter l).op = s.op := by unfold State.enter; split <;> rfl
@[simp] theorem State.enter_ansBit : (s.enter l).ansBit = s.ansBit := by unfold State.enter; split <;> rfl
@[simp] theorem State.enter_ansPos : (s.enter l).ansPos = s.ansPos := by unfold State.enter; split <;> rfl
@[simp] theorem State.enter_k : (s.enter l).k = s.k := by unfold State.enter; split <;> rfl
@[simp] theorem State.enter_raceEmit : (s.enter l).raceEmit = s.raceEmit := by unfold State.enter; split <;> rfl
@[simp] theorem State.enter_hostData : (s.enter l).hostData = s.hostData := by unfold State.enter; split <;> rfl
@[simp] theorem State.enter_hostErr : (s.enter l).hostErr = s.hostErr := by unfold State.enter; split <;> rfl
@[simp] theorem State.enter_cap : (s.enter l).cap = s.cap := by unfold State.enter; split <;> rfl
@[simp] theorem State.enter_hz : (s.enter l).hz = s.hz := by unfold State.enter; split <;> rfl
@[simp] theorem State.enter_sink : (s.enter l).sink = s.sink := by unfold State.enter; split <;> rfl
@[simp] theorem State.enter_env : (s.enter l).env = s.env := by unfold State.enter; split <;> rfl

end

/-! ### `State.needsData` -/

section
variable (s : State) (c : Channel) (code : BitVec 8)

@[simp] theorem State.needsData_cfg : (s.needsData c code).cfg = s.cfg := by unfold State.needsData; split <;> rfl
@[simp] theorem State.needsData_cfgl : (s.needsData c code).cfgl = s.cfgl := by unfold State.needsData; split <;> rfl
@[simp] theorem State.needsData_mdir : (s.needsData c code).mdir = s.mdir := by unfold State.needsData; split <;> rfl
@[simp] theorem State.needsData_cs : (s.needsData c code).cs = s.cs := by unfold State.needsData; split <;> rfl
@[simp] theorem State.needsData_fs : (s.needsData c code).fs = s.fs := by unfold State.needsData; split <;> rfl
@[simp] theorem State.needsData_ds : (s.needsData c code).ds = s.ds := by unfold State.needsData; split <;> rfl
@[simp] theorem State.needsData_es : (s.needsData c code).es = s.es := by unfold State.needsData; split <;> rfl
@[simp] theorem State.needsData_rs : (s.needsData c code).rs = s.rs := by unfold State.needsData; split <;> rfl
@[simp] theorem State.needsData_rn : (s.needsData c code).rn = s.rn := by unfold State.needsData; split <;> rfl
@[simp] theorem State.needsData_nr : (s.needsData c code).nr = s.nr := by unfold State.needsData; split <;> rfl
@[simp] theorem State.needsData_rt : (s.needsData c code).rt = s.rt := by unfold State.needsData; split <;> rfl
@[simp] theorem State.needsData_cp : (s.needsData c code).cp = s.cp := by unfold State.needsData; split <;> rfl
@[simp] theorem State.needsData_i : (s.needsData c code).i = s.i := by unfold State.needsData; split <;> rfl
@[simp] theorem State.needsData_pos : (s.needsData c code).pos = s.pos := by unfold State.needsData; split <;> rfl
@[simp] theorem State.needsData_accDout : (s.needsData c code).accDout = s.accDout := by unfold State.needsData; split <;> rfl
@[simp] theorem State.needsData_accDin : (s.needsData c code).accDin = s.accDin := by unfold State.needsData; split <;> rfl
@[simp] theorem State.needsData_mb : (s.needsData c code).mb = s.mb := by unfold State.needsData; split <;> rfl
@[simp] theorem State.needsData_op : (s.needsData c code).op = code := by unfold State.needsData; split <;> rfl
@[simp] theorem State.needsData_ansBit : (s.needsData c code).ansBit = s.ansBit := by unfold State.needsData; split <;> rfl
@[simp] theorem State.needsData_ansPos : (s.needsData c code).ansPos = s.ansPos := by unfold State.needsData; split <;> rfl
@[simp] theorem State.needsData_k : (s.needsData c code).k = s.k := by unfold State.needsData; split <;> rfl
@[simp] theorem State.needsData_raceEmit : (s.needsData c code).raceEmit = s.raceEmit := by unfold State.needsData; split <;> rfl
@[simp] theorem State.needsData_hostData : (s.needsData c code).hostData = s.hostData := by unfold State.needsData; split <;> rfl
@[simp] theorem State.needsData_hostErr : (s.needsData c code).hostErr = s.hostErr := by unfold State.needsData; split <;> rfl
@[simp] theorem State.needsData_cap : (s.needsData c code).cap = s.cap := by unfold State.needsData; split <;> rfl
@[simp] theorem State.needsData_hz : (s.needsData c code).hz = s.hz := by unfold State.needsData; split <;> rfl
@[simp] theorem State.needsData_sink : (s.needsData c code).sink = s.sink := by unfold State.needsData; split <;> rfl
@[simp] theorem State.needsData_env : (s.needsData c code).env = s.env := by unfold State.needsData; split <;> rfl

end

/-! ### `State.cancelBit` -/

section
variable (s : State)

@[simp] theorem State.cancelBit_cfg : s.cancelBit.cfg = s.cfg := by unfold State.cancelBit; split <;> rfl
@[simp] theorem State.cancelBit_cfgl : s.cancelBit.cfgl = s.cfgl := by unfold State.cancelBit; split <;> rfl
@[simp] theorem State.cancelBit_mdir : s.cancelBit.mdir = s.mdir := by unfold State.cancelBit; split <;> rfl
@[simp] theorem State.cancelBit_cs : s.cancelBit.cs = s.cs := by unfold State.cancelBit; split <;> rfl
@[simp] theorem State.cancelBit_fs : s.cancelBit.fs = s.fs := by unfold State.cancelBit; split <;> rfl
@[simp] theorem State.cancelBit_ds : s.cancelBit.ds = s.ds := by unfold State.cancelBit; split <;> rfl
@[simp] theorem State.cancelBit_es : s.cancelBit.es = s.es := by unfold State.cancelBit; split <;> rfl
@[simp] theorem State.cancelBit_rs : s.cancelBit.rs = s.rs := by unfold State.cancelBit; split <;> rfl
@[simp] theorem State.cancelBit_rn : s.cancelBit.rn = s.rn := by unfold State.cancelBit; split <;> rfl
@[simp] theorem State.cancelBit_nr : s.cancelBit.nr = s.nr := by unfold State.cancelBit; split <;> rfl
@[simp] theorem State.cancelBit_rt : s.cancelBit.rt = s.rt := by unfold State.cancelBit; split <;> rfl
@[simp] theorem State.cancelBit_i : s.cancelBit.i = s.i := by unfold State.cancelBit; split <;> rfl
@[simp] theorem State.cancelBit_pos : s.cancelBit.pos = s.pos := by unfold State.cancelBit; split <;> rfl
@[simp] theorem State.cancelBit_accDout : s.cancelBit.accDout = s.accDout := by unfold State.cancelBit; split <;> rfl
@[simp] theorem State.cancelBit_accDin : s.cancelBit.accDin = s.accDin := by unfold State.cancelBit; split <;> rfl
@[simp] theorem State.cancelBit_mb : s.cancelBit.mb = s.mb := by unfold State.cancelBit; split <;> rfl
@[simp] theorem State.cancelBit_ctlp : s.cancelBit.ctlp = s.ctlp := by unfold State.cancelBit; split <;> rfl
@[simp] theorem State.cancelBit_runState : s.cancelBit.runState = s.runState := by unfold State.cancelBit; split <;> rfl
@[simp] theorem State.cancelBit_cause : s.cancelBit.cause = s.cause := by unfold State.cancelBit; split <;> rfl
@[simp] theorem State.cancelBit_op : s.cancelBit.op = s.op := by unfold State.cancelBit; split <;> rfl
@[simp] theorem State.cancelBit_ansBit : s.cancelBit.ansBit = s.ansBit := by unfold State.cancelBit; split <;> rfl
@[simp] theorem State.cancelBit_ansPos : s.cancelBit.ansPos = s.ansPos := by unfold State.cancelBit; split <;> rfl
@[simp] theorem State.cancelBit_k : s.cancelBit.k = s.k := by unfold State.cancelBit; split <;> rfl
@[simp] theorem State.cancelBit_raceEmit : s.cancelBit.raceEmit = s.raceEmit := by unfold State.cancelBit; split <;> rfl
@[simp] theorem State.cancelBit_hostData : s.cancelBit.hostData = s.hostData := by unfold State.cancelBit; split <;> rfl
@[simp] theorem State.cancelBit_hostErr : s.cancelBit.hostErr = s.hostErr := by unfold State.cancelBit; split <;> rfl
@[simp] theorem State.cancelBit_cap : s.cancelBit.cap = s.cap := by unfold State.cancelBit; split <;> rfl
@[simp] theorem State.cancelBit_hz : s.cancelBit.hz = s.hz := by unfold State.cancelBit; split <;> rfl
@[simp] theorem State.cancelBit_sink : s.cancelBit.sink = s.sink := by unfold State.cancelBit; split <;> rfl
@[simp] theorem State.cancelBit_env : s.cancelBit.env = s.env := by unfold State.cancelBit; split <;> rfl

end

/-! ### Registers, accumulators and groups by name -/

@[simp] theorem PerChannel.get_set_self {α : Type} (q : PerChannel α) (c : Channel) (a : α) :
    (q.set c a).get c = a := by cases c <;> rfl

theorem PerChannel.get_set_of_ne {α : Type} (q : PerChannel α) (c d : Channel) (a : α) (h : d ≠ c) :
    (q.set c a).get d = q.get d := by cases c <;> cases d <;> first | rfl | exact absurd rfl h

@[simp] theorem PerChannel.get_all {α : Type} (a : α) (c : Channel) :
    (PerChannel.all a).get c = a := by cases c <;> rfl

theorem PerChannel.ext_get {α : Type} (p q : PerChannel α) (h : ∀ c, p.get c = q.get c) : p = q := by
  cases p; cases q
  have h₁ := h .clk; have h₂ := h .dout; have h₃ := h .din; have h₄ := h .en
  simp only [PerChannel.get] at h₁ h₂ h₃ h₄
  subst h₁ h₂ h₃ h₄; rfl

@[simp] theorem State.reg_setReg_self (s : State) (r : SampleReg) (v : Sample) :
    (s.setReg r v).reg r = .holding v := by cases r <;> rfl

theorem State.reg_setReg_of_ne (s : State) (r q : SampleReg) (v : Sample) (h : q ≠ r) :
    (s.setReg r v).reg q = s.reg q := by cases r <;> cases q <;> first | rfl | exact absurd rfl h

@[simp] theorem State.acc_setAcc_self (s : State) (a : AccSel) (x : Accumulator) :
    (s.setAcc a x).acc a = x := by cases a <;> rfl

theorem State.acc_setAcc_of_ne (s : State) (a b : AccSel) (x : Accumulator) (h : b ≠ a) :
    (s.setAcc a x).acc b = s.acc b := by cases a <;> cases b <;> first | rfl | exact absurd rfl h

@[simp] theorem WorkReg.holding_written (v : Sample) : (WorkReg.holding v).written = true := rfl
@[simp] theorem WorkReg.holding_val (v : Sample) : (WorkReg.holding v).val = v := rfl
@[simp] theorem RunState.resumed_running : RunState.running.resumed = .running := rfl
@[simp] theorem RunState.resumed_waiting : RunState.waiting.resumed = .running := rfl

/-! ### Entering a procedure -/

theorem State.enter_of_lt (s : State) (l : Label) (h : s.ctlp.length < 4) :
    s.enter l = { s with ctlp := .line l :: s.ctlp } := if_pos h

theorem State.enter_of_full (s : State) (l : Label) (h : 4 ≤ s.ctlp.length) :
    s.enter l = s.internalFault s.op := if_neg (by omega)

theorem State.enterRace_of_lt (s : State) (e : Bool) (h : s.ctlp.length < 4) :
    s.enterRace e = { s with raceEmit := e, ctlp := .line .rc1 :: s.ctlp } := if_pos h

/-! ### An operation that lacks data -/

theorem State.needsData_of_complete (s : State) (c : Channel) (code : BitVec 8)
    (h : s.hz.get c = s.cap.len) :
    s.needsData c code = { s with op := code }.endRun .doneEod .endOfData := if_pos h

theorem State.needsData_of_incomplete (s : State) (c : Channel) (code : BitVec 8)
    (h : s.hz.get c ≠ s.cap.len) : s.needsData c code = s.waitAt code := if_neg h

end Sys2Proof.Machine
end

