-- ==== Sys2Proof/Laws/Ops.lean ====
section
/-! SUPPORT. What each shared operation can do, said once: the first available transition, waiting
and ending, the operations as a whole, and what a capture keeps. -/

namespace Sys2Proof.Machine

open Sys2Proof

/-! ## The least of a list -/

theorem earliest_eq_none (l : List Sample) : earliest l = none ↔ l = [] := by
  cases l with
  | nil => simp [earliest]
  | cons t ts => simp only [earliest]; split <;> simp

theorem earliest_least {l : List Sample} {t : Sample} (h : earliest l = some t) :
    t ∈ l ∧ ∀ u ∈ l, t ≤ u := by
  induction l generalizing t with
  | nil => simp [earliest] at h
  | cons a ts ih =>
    simp only [earliest] at h
    split at h
    · next hn =>
      rw [earliest_eq_none] at hn
      subst hn
      simp_all
    · next u hu =>
      obtain ⟨hm, hle⟩ := ih hu
      by_cases hau : a ≤ u
      · simp only [hau, if_true, Option.some.injEq] at h
        subst h
        refine ⟨List.mem_cons_self, fun v hv => ?_⟩
        rcases List.mem_cons.mp hv with rfl | hv
        · exact BitVec.le_refl _
        · exact BitVec.le_trans hau (hle v hv)
      · simp only [hau, if_false, Option.some.injEq] at h
        subst h
        refine ⟨List.mem_cons_of_mem _ hm, fun v hv => ?_⟩
        rcases List.mem_cons.mp hv with rfl | hv
        · exact (BitVec.le_total u v).resolve_right hau
        · exact hle v hv

theorem earliest_eq_some_iff {l : List Sample} {t : Sample} :
    earliest l = some t ↔ t ∈ l ∧ ∀ u ∈ l, t ≤ u := by
  refine ⟨earliest_least, fun ⟨hm, hle⟩ => ?_⟩
  cases he : earliest l with
  | none => rw [earliest_eq_none] at he; simp [he] at hm
  | some u =>
    obtain ⟨hu, hul⟩ := earliest_least he
    rw [BitVec.le_antisymm (hul t hm) (hle u hu)]

/-! ## The transitions ahead of a cursor -/

theorem mem_ahead {s : State} {c : Channel} {t : Sample} :
    t ∈ s.ahead c ↔
      t ∈ (s.cap.wave.get c).edges ∧ s.pos.get c < t ∧ t.toNat < s.hz.get c := by
  simp [State.ahead]

/-- The `min(A)` of R98 is the next available transition. -/
theorem earliest_ahead_iff {s : State} {c : Channel} {t : Sample} :
    earliest (s.ahead c) = some t ↔ s.NextAvailable c t := by
  rw [earliest_eq_some_iff, mem_ahead]
  constructor
  · rintro ⟨⟨hm, hp, hh⟩, hle⟩
    exact ⟨hm, hp, hh, fun u hu hpu hhu => hle u (mem_ahead.mpr ⟨hu, hpu, hhu⟩)⟩
  · rintro ⟨hm, hp, hh, hle⟩
    refine ⟨⟨hm, hp, hh⟩, fun u hu => ?_⟩
    obtain ⟨hu, hpu, hhu⟩ := mem_ahead.mp hu
    exact hle u hu hpu hhu

/-- The `A` of R98 is empty exactly when no later transition is available. -/
theorem earliest_ahead_none_iff {s : State} {c : Channel} :
    earliest (s.ahead c) = none ↔ s.NoneAvailable c := by
  rw [earliest_eq_none, List.eq_nil_iff_forall_not_mem]
  constructor
  · intro h u hu hp hh
    exact h u (mem_ahead.mpr ⟨hu, hp, hh⟩)
  · intro h u hu
    obtain ⟨hu, hp, hh⟩ := mem_ahead.mp hu
    exact h u hu hp hh

theorem ahead_isEmpty_iff {s : State} {c : Channel} :
    (s.ahead c).isEmpty = true ↔ s.NoneAvailable c := by
  rw [← earliest_ahead_none_iff, earliest_eq_none, List.isEmpty_iff]

/-! ## Operations on a channel -/

theorem onChannel_present {c : Channel} {code : BitVec 8} {s : State} (f : State → State)
    (h : s.present c = true) : onChannel c code s f = .next (f s) := by
  simp [onChannel, h]

theorem onChannel_absent {c : Channel} {code : BitVec 8} {s : State} (f : State → State)
    (h : s.present c = false) : onChannel c code s f = .next (s.internalFault code) := by
  simp [onChannel, h]

theorem withReg_written {r : SampleReg} {code : BitVec 8} {s : State} (f : Sample → State)
    (h : (s.reg r).written = true) : withReg r code s f = f (s.reg r).val := by
  simp [withReg, h]

theorem withReg_unwritten {r : SampleReg} {code : BitVec 8} {s : State} (f : Sample → State)
    (h : (s.reg r).written = false) : withReg r code s f = s.internalFault code := by
  simp [withReg, h]

/-- What holds of the fault and of every value holds of a register read. -/
theorem withReg_ind {P : State → Prop} {r : SampleReg} {code : BitVec 8} {s : State}
    {f : Sample → State} (hfault : P (s.internalFault code)) (hval : ∀ v, P (f v)) :
    P (withReg r code s f) := by
  unfold withReg; split
  · exact hval _
  · exact hfault

/-! ## The environment's data under an instruction -/

/-- The capture, the horizons and the schedule are the same in two states. -/
def State.SameEnvironment (s t : State) : Prop := t.cap = s.cap ∧ t.hz = s.hz ∧ t.env = s.env

theorem State.SameEnvironment.refl (s : State) : s.SameEnvironment s := ⟨rfl, rfl, rfl⟩

theorem State.SameEnvironment.trans {s t u : State} (h : s.SameEnvironment t)
    (k : t.SameEnvironment u) : s.SameEnvironment u :=
  ⟨k.1.trans h.1, k.2.1.trans h.2.1, k.2.2.trans h.2.2⟩

theorem onChannel_next (c : Channel) (code : BitVec 8) (s : State) (f : State → State)
    (h : s.SameEnvironment (f s)) : ∃ t, onChannel c code s f = .next t ∧ s.SameEnvironment t := by
  refine ⟨_, rfl, ?_⟩
  split
  · exact h
  · exact .refl _

theorem State.SameEnvironment.needsData (s : State) (c : Channel) (code : BitVec 8) :
    s.SameEnvironment (s.needsData c code) := by
  simp [State.SameEnvironment]

theorem State.SameEnvironment.withReg {r : SampleReg} {code : BitVec 8} {s : State}
    {f : Sample → State} (h : ∀ v, s.SameEnvironment (f v)) :
    s.SameEnvironment (withReg r code s f) :=
  withReg_ind (.refl s) h

theorem levelOp_next (c : Channel) (code : BitVec 8) (s : State) :
    ∃ t, levelOp c code s = .next t ∧ s.SameEnvironment t :=
  onChannel_next c code s _ (.refl s)

theorem posOp_next (c : Channel) (code : BitVec 8) (s : State) :
    ∃ t, posOp c code s = .next t ∧ s.SameEnvironment t :=
  onChannel_next c code s _ (.refl s)

theorem advEdgeOp_next (c : Channel) (code : BitVec 8) (s : State) :
    ∃ t, advEdgeOp c code s = .next t ∧ s.SameEnvironment t := by
  apply onChannel_next; dsimp only; split
  · exact .refl s
  · exact .needsData s c code

theorem advToOp_next (c : Channel) (r : SampleReg) (code : BitVec 8) (s : State) :
    ∃ t, advToOp c r code s = .next t ∧ s.SameEnvironment t := by
  apply onChannel_next; apply State.SameEnvironment.withReg; intro v; split
  · exact .refl s
  · split
    · exact .refl s
    · exact .needsData s c code

theorem nextEdgeOp_next (c : Channel) (code : BitVec 8) (s : State) :
    ∃ t, nextEdgeOp c code s = .next t ∧ s.SameEnvironment t := by
  apply onChannel_next; dsimp only; split
  · exact .refl s
  · exact .needsData s c code

theorem wouldCrossOp_next (c : Channel) (r : SampleReg) (code : BitVec 8) (s : State) :
    ∃ t, wouldCrossOp c r code s = .next t ∧ s.SameEnvironment t := by
  apply onChannel_next; apply State.SameEnvironment.withReg; intro v; split
  · exact .refl s
  · split
    · exact .refl s
    · exact .needsData s c code

theorem hasMoreOp_next (c : Channel) (code : BitVec 8) (s : State) :
    ∃ t, hasMoreOp c code s = .next t ∧ s.SameEnvironment t :=
  onChannel_next c code s _ (.refl s)

theorem accResetOp_next (a : AccSel) (code : BitVec 8) (s : State) :
    ∃ t, accResetOp a code s = .next t ∧ s.SameEnvironment t :=
  ⟨_, rfl, by simp [State.SameEnvironment]⟩

theorem accAddBitOp_next (a : AccSel) (b : Level) (code : BitVec 8) (s : State) :
    ∃ t, accAddBitOp a b code s = .next t ∧ s.SameEnvironment t := by
  refine ⟨_, rfl, ?_⟩; split
  · exact .refl s
  · simp [State.SameEnvironment]

theorem pollOp_next (code : BitVec 8) (s : State) :
    ∃ t, pollOp code s = .next t ∧ s.SameEnvironment t := by
  refine ⟨_, rfl, ?_⟩; split <;> exact .refl s

theorem emitStartOp_next (code : BitVec 8) (s : State) :
    ∃ t, emitStartOp code s = .next t ∧ s.SameEnvironment t :=
  ⟨_, rfl, .withReg fun _ => .refl s⟩

theorem emitErrorOp_next (code : BitVec 8) (s : State) :
    ∃ t, emitErrorOp code s = .next t ∧ s.SameEnvironment t :=
  ⟨_, rfl, .withReg fun _ => .withReg fun _ => .refl s⟩

theorem emitDisableOp_next (r : SampleReg) (code : BitVec 8) (s : State) :
    ∃ t, emitDisableOp r code s = .next t ∧ s.SameEnvironment t :=
  ⟨_, rfl, .withReg fun _ => .refl s⟩

theorem emitResultOp_next (code : BitVec 8) (s : State) :
    ∃ t, emitResultOp code s = .next t ∧ s.SameEnvironment t :=
  ⟨_, rfl, .withReg fun _ => .refl s⟩

theorem emitBitMarkerOp_next (k : MarkerKind) (code : BitVec 8) (s : State) :
    ∃ t, emitBitMarkerOp k code s = .next t ∧ s.SameEnvironment t := by
  refine ⟨_, rfl, ?_⟩; split <;> exact .refl s

theorem emitErrorMarkerOp_next (code : BitVec 8) (s : State) :
    ∃ t, emitErrorMarkerOp code s = .next t ∧ s.SameEnvironment t :=
  ⟨_, rfl, .withReg fun _ => .refl s⟩

theorem State.SameEnvironment.enter (s : State) (l : Label) : s.SameEnvironment (s.enter l) := by
  simp [State.SameEnvironment]

theorem State.SameEnvironment.enterRace (s : State) (e : Bool) :
    s.SameEnvironment (s.enterRace e) :=
  .enter { s with raceEmit := e } .rc1

theorem ctrlWriteOp_next (v : Word) (s : State) :
    ∃ t, ctrlWriteOp v s = .next t ∧ s.SameEnvironment t := by
  have hgo : s.SameEnvironment s.goBit := by
    unfold State.goBit; split
    · exact .refl s
    · split <;> exact .refl s
  have hcancel : ∀ u : State, u.SameEnvironment u.cancelBit := fun u => by
    simp [State.SameEnvironment]
  refine ⟨_, rfl, ?_⟩
  split <;> split
  · exact hgo.trans (hcancel _)
  · exact hcancel s
  · exact hgo
  · exact .refl s

/-- Every instruction answers a next state, and none touches the capture, the horizons or the
schedule. -/
theorem exec_next (i : Instr) (s : State) : ∃ t, exec i s = .next t ∧ s.SameEnvironment t := by
  cases i with
  | curLevelClk | curLevelDout | curLevelDin | curLevelEn => exact levelOp_next _ _ s
  | curPosClk | curPosDout | curPosDin | curPosEn => exact posOp_next _ _ s
  | curAdvEdgeClk | curAdvEdgeDout | curAdvEdgeDin | curAdvEdgeEn => exact advEdgeOp_next _ _ s
  | curAdvToClk | curAdvToDout | curAdvToDin | curAdvToEn => exact advToOp_next _ _ _ s
  | curNextEdgeClk | curNextEdgeDout | curNextEdgeDin | curNextEdgeEn =>
    exact nextEdgeOp_next _ _ s
  | curWouldCrossClk | curWouldCrossDout | curWouldCrossDin | curWouldCrossEn =>
    exact wouldCrossOp_next _ _ _ s
  | curHasMoreClk | curHasMoreDout | curHasMoreDin | curHasMoreEn => exact hasMoreOp_next _ _ s
  | accResetDout | accResetDin => exact accResetOp_next _ _ s
  | accAddBitDout0 | accAddBitDout1 | accAddBitDin0 | accAddBitDin1 =>
    exact accAddBitOp_next _ _ _ s
  | poll => exact pollOp_next _ s
  | emitStart => exact emitStartOp_next _ s
  | emitError => exact emitErrorOp_next _ s
  | emitDisable => exact emitDisableOp_next _ _ s
  | emitResult => exact emitResultOp_next _ s
  | emitMarkerUp | emitMarkerDown => exact emitBitMarkerOp_next _ _ s
  | emitMarkerError => exact emitErrorMarkerOp_next _ s
  | procRun | procSetup | procResync | procAdvActiveEnable | procNextActiveEdge | procGetWord
  | procSampleData => exact ⟨_, rfl, .enter s _⟩
  | procRaceCheck e => exact ⟨_, rfl, .enterRace s e⟩
  | wrCtrl | go | cancel => exact ctrlWriteOp_next _ s
  | rdCfg | wrCfg | rdCtrl | rdStatus | wrStatus | rdRsvd | wrRsvd => exact ⟨_, rfl, .refl s⟩

/-! ## Captures -/

theorem Capture.shortest_wf : Capture.shortest.wf = true := by decide

theorem growTo_bounds {len old h : Nat} (h₁ : 1 ≤ old) (h₂ : old ≤ len) :
    1 ≤ growTo len old h ∧ growTo len old h ≤ len ∧ old ≤ growTo len old h := by
  unfold growTo; omega

/-- A capture that the environment presents is in canonical form or the input is refused. -/
theorem presentInput_wf {cap : Capture} {hz : PerChannel Nat} {s t : State}
    (h : presentInput cap hz s = .next t) : t.cap.wf = true := by
  unfold presentInput at h
  split at h
  · cases h
  · split at h
    · next hwf => cases h; exact hwf
    · cases h

end Sys2Proof.Machine
end

