-- ==== Sys2Proof/Laws/Lines.lean ====
section
/-! SUPPORT. What a labelled line can do: the frame of the lines that perform no operation, what
the rest of a line does after its operation, and that control always comes to an operation. -/

namespace Sys2Proof.Machine

open Sys2Proof

/-! ## Lines that perform no operation -/

/-- What no line without an operation changes. -/
structure State.SilentFrame (s t : State) : Prop where
  cfg : t.cfg = s.cfg
  cfgl : t.cfgl = s.cfgl
  cp : t.cp = s.cp
  pos : t.pos = s.pos
  accDout : t.accDout = s.accDout
  accDin : t.accDin = s.accDin
  op : t.op = s.op
  ansBit : t.ansBit = s.ansBit
  ansPos : t.ansPos = s.ansPos
  hostData : t.hostData = s.hostData
  hostErr : t.hostErr = s.hostErr
  cap : t.cap = s.cap
  hz : t.hz = s.hz
  sink : t.sink = s.sink
  env : t.env = s.env
  runState : t.runState = s.runState ∨ t.runState = .fault

theorem State.SilentFrame.refl (s : State) : s.SilentFrame s :=
  ⟨rfl, rfl, rfl, rfl, rfl, rfl, rfl, rfl, rfl, rfl, rfl, rfl, rfl, rfl, rfl, .inl rfl⟩

theorem State.SilentFrame.trans {s t u : State} (h : s.SilentFrame t) (k : t.SilentFrame u) :
    s.SilentFrame u := by
  constructor
  case runState =>
    rcases k.runState with hk | hk
    · rcases h.runState with hh | hh
      · exact .inl (hk.trans hh)
      · exact .inr (hk.trans hh)
    · exact .inr hk
  all_goals first
    | exact k.cfg.trans h.cfg | exact k.cfgl.trans h.cfgl | exact k.cp.trans h.cp
    | exact k.pos.trans h.pos | exact k.accDout.trans h.accDout | exact k.accDin.trans h.accDin
    | exact k.op.trans h.op | exact k.ansBit.trans h.ansBit | exact k.ansPos.trans h.ansPos
    | exact k.hostData.trans h.hostData | exact k.hostErr.trans h.hostErr
    | exact k.cap.trans h.cap | exact k.hz.trans h.hz | exact k.sink.trans h.sink
    | exact k.env.trans h.env

theorem State.SilentFrame.fault (s : State) : s.SilentFrame (s.internalFault s.op) :=
  ⟨rfl, rfl, rfl, rfl, rfl, rfl, rfl, rfl, rfl, rfl, rfl, rfl, rfl, rfl, rfl, .inr rfl⟩

theorem State.SilentFrame.enter (s : State) (l : Label) : s.SilentFrame (s.enter l) := by
  unfold State.enter; split
  · exact ⟨rfl, rfl, rfl, rfl, rfl, rfl, rfl, rfl, rfl, rfl, rfl, rfl, rfl, rfl, rfl, .inl rfl⟩
  · exact .fault s

/-- A change of the fields that lines without an operation may write. -/
theorem State.SilentFrame.update (s : State) (mdir : BitVec 2) (cs fs ds es rs rn : WorkReg)
    (nr rt : Bool) (i : BitVec 7) (mb : List Sample) (ctlp : List Point) (cause : Cause)
    (k : BitVec 7) (raceEmit : Bool) :
    s.SilentFrame { s with
      mdir := mdir, cs := cs, fs := fs, ds := ds, es := es, rs := rs, rn := rn, nr := nr
      rt := rt, i := i, mb := mb, ctlp := ctlp, cause := cause, k := k, raceEmit := raceEmit } :=
  ⟨rfl, rfl, rfl, rfl, rfl, rfl, rfl, rfl, rfl, rfl, rfl, rfl, rfl, rfl, rfl, .inl rfl⟩

theorem State.SilentFrame.goto (s : State) (l : Label) : s.SilentFrame (s.goto l) :=
  .update s _ _ _ _ _ _ _ _ _ _ _ _ _ _ _

theorem State.SilentFrame.ret (s : State) : s.SilentFrame s.ret :=
  .update s _ _ _ _ _ _ _ _ _ _ _ _ _ _ _

theorem State.SilentFrame.toMarkers (s : State) : s.SilentFrame s.toMarkers :=
  .update s _ _ _ _ _ _ _ _ _ _ _ _ _ _ _

theorem State.SilentFrame.loopAt (s : State) (i : Nat) : s.SilentFrame (s.loopAt i) := by
  unfold State.loopAt; split
  · exact .update s _ _ _ _ _ _ _ _ _ _ _ _ _ _ _
  · exact .toMarkers s

theorem State.SilentFrame.call (s : State) (follows entry : Label) :
    s.SilentFrame (s.call follows entry) :=
  (State.SilentFrame.goto s follows).trans (.enter _ entry)

theorem State.SilentFrame.callNextActive (s : State) : s.SilentFrame s.callNextActive := by
  unfold State.callNextActive; split
  · exact .call s _ _
  · exact .goto s _

theorem State.SilentFrame.record (s : State) (c : Cause) : s.SilentFrame (s.record c) :=
  .update s _ _ _ _ _ _ _ _ _ _ _ _ _ _ _

theorem State.SilentFrame.enterRace (s : State) (e : Bool) : s.SilentFrame (s.enterRace e) :=
  State.SilentFrame.trans (t := { s with raceEmit := e })
    (.update s _ _ _ _ _ _ _ _ _ _ _ _ _ _ _) (.enter _ _)

theorem State.SilentFrame.noteSample (s : State) : s.SilentFrame s.noteSample := by
  unfold State.noteSample; split
  · exact withReg_ind (.fault s) fun _ => .update s _ _ _ _ _ _ _ _ _ _ _ _ _ _ _
  · exact .fault s

/-- The frame of every line that performs no operation. -/
theorem line_silent_frame {l : Label} {s t : State} (h : line l s = .silent t) :
    s.SilentFrame t := by
  cases l <;> simp only [line, operate] at h
  case run1 | run2 | run3 | rs1 => cases h; exact .call s _ _
  case gwRet => cases h; exact .ret s
  case ae2 => cases h; exact .callNextActive s
  case run4 => cases h; exact .goto s _
  case su1 => cases h; exact .update s _ _ _ _ _ _ _ _ _ _ _ _ _ _ _
  case ae1 => split at h <;> cases h; exact .goto s _
  case rc1 =>
    split at h <;> cases h
    · exact .goto s _
    · exact .update s _ _ _ _ _ _ _ _ _ _ _ _ _ _ _
  case rc10 => split at h <;> cases h; exact .ret s
  case gw4 | gw4next => cases h; exact .loopAt s _
  case gw5 | gw11 | gw14 => cases h; exact (State.SilentFrame.goto s _).trans (.enterRace _ _)
  case gw6 | gw15 =>
    cases h; split
    · exact (State.SilentFrame.record s _).trans (.call _ _ _)
    · exact .goto s _
  case gw8 => split at h <;> cases h; exact .goto s _
  case gw9 | gw17 => cases h; split <;> first | exact .call s _ _ | exact .goto s _
  case gw10 => cases h; exact .goto s _
  case gw12 =>
    cases h; split
    · exact withReg_ind (.fault s) fun _ => .update s _ _ _ _ _ _ _ _ _ _ _ _ _ _ _
    · exact .goto s _
  case gw18 => split at h <;> cases h; exact .goto s _
  case gw20 => split at h <;> cases h; exact .ret s
  case sd2 | sd3 | sd4 | sd5 => split at h <;> cases h; exact .goto s _
  case sd6 => cases h; exact .noteSample s
  all_goals cases h

/-! ## Control goes through them -/

/-- What every line without an operation keeps, going through them keeps. -/
theorem settle_keeps {P : State → Prop} (hP : ∀ l s t, line l s = .silent t → P s → P t)
    (n : Nat) (s : State) (hs : P s) : P (settle n s) := by
  induction n generalizing s with
  | zero => exact hs
  | succ n ih =>
    unfold settle
    split
    · split
      · next ht => exact ih _ (hP _ _ _ ht hs)
      · exact hs
    · exact hs

theorem settle_frame (n : Nat) (s : State) : s.SilentFrame (settle n s) :=
  settle_keeps (P := fun u => s.SilentFrame u)
    (fun _ _ _ h hs => hs.trans (line_silent_frame h)) n s (.refl s)

/-- How many lines without an operation may follow a label before its procedure performs one or
returns; 0 where the line always performs one. -/
def silentBound : Label → Nat
  | .run1 => 7 | .run2 => 5 | .run3 => 1 | .run4 => 2
  | .su1 => 1
  | .rs1 => 3
  | .ae1 => 2 | .ae2 => 1
  | .rc1 | .rc10 => 1
  | .gw4 => 8 | .gw5 => 7 | .gw6 => 5 | .gw8 => 10 | .gw9 => 9 | .gw10 => 8 | .gw11 => 4
  | .gw12 => 2 | .gw14 => 7 | .gw15 => 5 | .gw17 => 9 | .gw4next => 8 | .gw18 => 1 | .gw20 => 1
  | .gwRet => 1
  | .sd2 => 5 | .sd3 => 4 | .sd4 => 3 | .sd5 => 2 | .sd6 => 1
  | _ => 0

/-- The same for a control stack. -/
def silentBoundOf : List Point → Nat
  | .line l :: rest => if silentBound l = 0 then 0 else silentBound l + silentBoundOf rest
  | _ => 0

@[simp] theorem silentBoundOf_nil : silentBoundOf [] = 0 := rfl

@[simp] theorem silentBoundOf_line (l : Label) (rest : List Point) :
    silentBoundOf (.line l :: rest) =
      if silentBound l = 0 then 0 else silentBound l + silentBoundOf rest := rfl

theorem silentBoundOf_enter_le (s : State) (l : Label) :
    silentBoundOf (s.enter l).ctlp ≤ silentBoundOf (.line l :: s.ctlp) := by
  unfold State.enter; split
  · exact Nat.le_refl _
  · exact Nat.zero_le _

/-- A line without an operation brings control nearer to one. -/
theorem line_silent_bound {l : Label} {s t : State} {rest : List Point}
    (hl : s.ctlp = .line l :: rest) (h : line l s = .silent t) :
    silentBoundOf t.ctlp < silentBoundOf s.ctlp := by
  have enter := fun (u : State) (m : Label) => silentBoundOf_enter_le u m
  cases l <;> simp only [line, operate] at h
  case run1 | run2 | run3 | rs1 =>
    cases h
    exact Nat.lt_of_le_of_lt (enter _ _) (by simp [State.goto, hl, silentBound]; try omega)
  case run4 | gwRet => cases h; simp [hl, silentBound]
  case ae2 =>
    cases h; unfold State.callNextActive; split
    · exact Nat.lt_of_le_of_lt (enter _ _) (by simp [hl, silentBound])
    · simp [hl, silentBound]
  case su1 => cases h; simp [hl, silentBound]
  case ae1 => split at h <;> cases h; simp [hl, silentBound]
  case rc1 => split at h <;> cases h <;> simp [hl, silentBound]
  case rc10 => split at h <;> cases h; simp [hl, silentBound]
  case gw4 | gw4next => cases h; unfold State.loopAt; split <;> simp [hl, silentBound]
  case gw5 | gw11 | gw14 =>
    cases h
    exact Nat.lt_of_le_of_lt (enter _ _) (by simp [State.goto, hl, silentBound]; try omega)
  case gw6 | gw15 =>
    cases h; split
    · exact Nat.lt_of_le_of_lt (enter _ _)
        (by simp [State.goto, State.record, hl, silentBound]; try omega)
    · simp [hl, silentBound]
  case gw8 => split at h <;> cases h; simp [hl, silentBound]
  case gw9 | gw17 =>
    cases h; split
    · exact Nat.lt_of_le_of_lt (enter _ _) (by simp [State.goto, hl, silentBound]; try omega)
    · simp [hl, silentBound]
  case gw10 => cases h; split <;> simp [hl, silentBound]
  case gw12 =>
    cases h; split
    · refine withReg_ind (P := fun u : State => silentBoundOf u.ctlp < _) ?_ fun _ => ?_ <;>
        simp [hl, silentBound]
    · simp [hl, silentBound]
  case gw18 => split at h <;> cases h; simp [hl, silentBound]
  case gw20 => split at h <;> cases h; simp [hl, silentBound]
  case sd2 | sd3 | sd4 | sd5 => split at h <;> cases h; simp [hl, silentBound]
  case sd6 =>
    cases h; unfold State.noteSample; split
    · refine withReg_ind (P := fun u : State => silentBoundOf u.ctlp < _) ?_ fun _ => ?_ <;>
        simp [hl, silentBound]
    · simp [hl, silentBound]
  all_goals cases h

/-- Control is at no line without an operation. -/
def State.Settled (s : State) : Prop :=
  ∀ l rest t, s.ctlp = .line l :: rest → line l s ≠ .silent t

theorem settle_of_settled {s : State} (h : s.Settled) (n : Nat) : settle n s = s := by
  cases n with
  | zero => rfl
  | succ n =>
    unfold settle
    split
    · next hl =>
      split
      · next ht => exact absurd ht (h _ _ _ hl)
      · rfl
    · rfl

theorem settle_silent {s t : State} {l : Label} {rest : List Point} (hl : s.ctlp = .line l :: rest)
    (h : line l s = .silent t) (n : Nat) : settle (n + 1) s = settle n t := by
  rw [settle, hl]; simp only [h]

/-- With fuel enough for its stack, control comes to rest. -/
theorem settle_settled (n : Nat) (s : State) (h : silentBoundOf s.ctlp ≤ n) :
    (settle n s).Settled := by
  induction n generalizing s with
  | zero =>
    intro l rest t hl ht
    have := line_silent_bound hl ht
    simp only [settle] at *
    omega
  | succ n ih =>
    by_cases hs : s.Settled
    · rw [settle_of_settled hs]; exact hs
    · unfold State.Settled at hs; push Not at hs
      obtain ⟨l, rest, t, hl, ht⟩ := hs
      rw [settle_silent hl ht]
      exact ih t (by have := line_silent_bound hl ht; omega)

/-- More fuel than enough makes no difference. -/
theorem settle_fuel (n : Nat) (s : State) (h : silentBoundOf s.ctlp ≤ n) (m : Nat) (hm : n ≤ m) :
    settle m s = settle n s := by
  induction n generalizing s m with
  | zero =>
    have hs := settle_settled 0 s h
    rw [settle] at hs
    rw [settle_of_settled hs, settle]
  | succ n ih =>
    by_cases hs : s.Settled
    · rw [settle_of_settled hs, settle_of_settled hs]
    · unfold State.Settled at hs; push Not at hs
      obtain ⟨l, rest, t, hl, ht⟩ := hs
      obtain ⟨m, rfl⟩ : ∃ k, m = k + 1 := ⟨m - 1, by omega⟩
      rw [settle_silent hl ht, settle_silent hl ht]
      exact ih t (by have := line_silent_bound hl ht; omega) m (by omega)

theorem silentBoundOf_le (c : List Point) : silentBoundOf c ≤ 10 * c.length := by
  induction c with
  | nil => exact Nat.zero_le _
  | cons p rest ih =>
    cases p with
    | word c => exact Nat.zero_le _
    | line l =>
      have one : silentBound l ≤ 10 := by cases l <;> decide
      rw [silentBoundOf_line, List.length_cons]; split <;> omega

/-- The fuel of a step is enough for every stack of at most four labels. -/
theorem silentBoundOf_fuel {ctlp : List Point} (h : ctlp.length ≤ 4) :
    silentBoundOf ctlp ≤ settleFuel := by
  have := silentBoundOf_le ctlp
  unfold settleFuel; omega

/-- In a sound state control comes to rest within a step. -/
theorem State.Sound.settled {s : State} (h : s.Sound) : (settle settleFuel s).Settled :=
  settle_settled _ _ (silentBoundOf_fuel h.depth)

/-- Entering a procedure leaves at most four labels (10_state.md R30). -/
theorem State.enter_depth (s : State) (l : Label) : (s.enter l).ctlp.length ≤ 4 := by
  unfold State.enter; split
  · simp; omega
  · exact Nat.zero_le 4

theorem State.call_depth (s : State) (follows entry : Label) :
    (s.call follows entry).ctlp.length ≤ 4 := State.enter_depth _ _

/-- What `AE.2` does where it stands under fewer than four labels: a call like any other. -/
theorem State.callNextActive_room {s : State} {rest : List Point} (hl : s.ctlp = .line .ae2 :: rest)
    (h : rest.length < 3) :
    s.callNextActive = { s with ctlp := .line .na1 :: .line .ae3 :: rest } := by
  simp [State.callNextActive, State.call, State.enter, State.goto, hl,
    show rest.length + 1 < 4 by omega]

/-- What `AE.2` does where four labels stand: its label gives its place to the callee's. -/
theorem State.callNextActive_full {s : State} {rest : List Point} (hl : s.ctlp = .line .ae2 :: rest)
    (h : 3 ≤ rest.length) : s.callNextActive = { s with ctlp := .line .ae2n1 :: rest } := by
  simp [State.callNextActive, State.goto, hl, show ¬ rest.length + 1 < 4 by omega]

/-! ## The rest of a line -/

/-- After an operation the rest of a line writes only the decoder's own registers: it leaves the
capture, the horizons, the schedule, the configuration, the cursors and `CP` as they are. -/
structure State.RestFrame (s t : State) : Prop where
  cfg : t.cfg = s.cfg
  cfgl : t.cfgl = s.cfgl
  cp : t.cp = s.cp
  pos : t.pos = s.pos
  cap : t.cap = s.cap
  hz : t.hz = s.hz
  env : t.env = s.env

theorem State.SilentFrame.rest {s t : State} (h : s.SilentFrame t) : s.RestFrame t :=
  ⟨h.cfg, h.cfgl, h.cp, h.pos, h.cap, h.hz, h.env⟩

theorem State.RestFrame.refl (s : State) : s.RestFrame s := (State.SilentFrame.refl s).rest

theorem State.RestFrame.trans {s t u : State} (h : s.RestFrame t) (k : t.RestFrame u) :
    s.RestFrame u :=
  ⟨k.cfg.trans h.cfg, k.cfgl.trans h.cfgl, k.cp.trans h.cp, k.pos.trans h.pos, k.cap.trans h.cap,
    k.hz.trans h.hz, k.env.trans h.env⟩

theorem State.RestFrame.same {s t : State} (h : s.RestFrame t) : s.SameEnvironment t :=
  ⟨h.cap, h.hz, h.env⟩

theorem State.RestFrame.setReg (s : State) (r : SampleReg) (v : Sample) :
    s.RestFrame (s.setReg r v) := by
  constructor <;> simp

theorem State.RestFrame.withReg {r : SampleReg} {code : BitVec 8} {s : State}
    {f : Sample → State} (h : ∀ v, s.RestFrame (f v)) : s.RestFrame (withReg r code s f) :=
  withReg_ind ⟨rfl, rfl, rfl, rfl, rfl, rfl, rfl⟩ h

theorem execAccAddBit_rest (a : AccSel) (b : Level) (s : State) :
    ∃ t, exec (.accAddBit a b) s = .next t ∧ s.RestFrame t := by
  cases a <;> cases b <;> refine ⟨_, rfl, ?_⟩ <;> split <;> constructor <;> simp

theorem execEmitResult_rest (s : State) : ∃ t, exec .emitResult s = .next t ∧ s.RestFrame t :=
  ⟨_, rfl, .withReg fun _ => ⟨rfl, rfl, rfl, rfl, rfl, rfl, rfl⟩⟩

/-- `proceed` after an outcome that is a next state. -/
theorem proceed_next {t : State} {rest : State → Out}
    (h : ∀ u, ∃ v, rest u = .next v ∧ u.RestFrame v) :
    ∃ v, proceed (.next t) rest = .next v ∧ t.RestFrame v := by
  unfold proceed; dsimp only; split
  · exact h t
  · exact ⟨t, rfl, .refl t⟩

/-- The rest of every line goes on to a next state, with the frame of `RestFrame`. -/
theorem line_rest_frame {l : Label} {s : State} {c : Code} {rest : State → Out}
    (h : line l s = .operation c rest) (t : State) : ∃ u, rest t = .next u ∧ t.RestFrame u := by
  have goto := fun (u : State) (m : Label) => (State.SilentFrame.goto u m).rest
  have ret := fun (u : State) => (State.SilentFrame.ret u).rest
  have take := fun (u : State) (r : SampleReg) => State.RestFrame.setReg u r u.ansPos
  cases l <;> simp only [line, operate] at h
  case rs3 =>
    cases h; refine ⟨_, rfl, ?_⟩; split
    · exact (State.SilentFrame.record t _).rest.trans
        (.withReg fun v => (State.RestFrame.setReg _ _ v).trans (State.SilentFrame.call _ _ _).rest)
    · exact (State.SilentFrame.record t _).rest.trans (goto _ _)
  case rs2 | rs5 | rs6 | rs7 | rc2 | rc3 | rc4 | na1 | na2 | ae2n1 | ae2n2 | ae2n3 | gw1 | gw2 | gw7 | gw16 =>
    cases h; exact ⟨_, rfl, goto t _⟩
  case rs9 | ae4 | na3 => cases h; exact ⟨_, rfl, ret t⟩
  case rs4 | rs8 | ae3 | rc5 | rc7 | sd1 => cases h; exact ⟨_, rfl, (take t _).trans (goto _ _)⟩
  case ae1 => split at h <;> cases h; exact ⟨_, rfl, (take t _).trans (ret _)⟩
  case rc6 =>
    cases h; refine ⟨_, rfl, ?_⟩; split
    · exact goto t _
    · exact ⟨rfl, rfl, rfl, rfl, rfl, rfl, rfl⟩
  case rc8 =>
    cases h; refine ⟨_, rfl, ?_⟩; split
    · exact goto t _
    · exact ⟨rfl, rfl, rfl, rfl, rfl, rfl, rfl⟩
  case rc9 =>
    cases h
    exact ⟨_, rfl, (take t .rs).trans ⟨rfl, rfl, rfl, rfl, rfl, rfl, rfl⟩⟩
  case rc10 => split at h <;> cases h; exact ⟨_, rfl, ret t⟩
  case gw3 => cases h; exact ⟨_, rfl, rfl, rfl, rfl, rfl, rfl, rfl, rfl⟩
  case gw8 => split at h <;> cases h; exact ⟨_, rfl, (take t _).trans (goto _ _)⟩
  case gw13 => cases h; exact ⟨_, rfl, (State.SilentFrame.toMarkers t).rest⟩
  case gw18 => split at h <;> cases h; exact ⟨_, rfl, .refl t⟩
  case gw19 =>
    cases h
    obtain ⟨u, hu, hf⟩ := execEmitResult_rest t
    dsimp only; rw [hu]
    obtain ⟨v, hv, hg⟩ := proceed_next (t := u) (rest := fun u => .next (u.goto .gw20))
      fun u => ⟨_, rfl, goto u _⟩
    exact ⟨v, hv, hf.trans hg⟩
  case gw20 =>
    split at h <;> cases h
    exact ⟨_, rfl, (State.SilentFrame.record t _).rest.trans (State.SilentFrame.call _ _ _).rest⟩
  case sd2 | sd4 => split at h <;> cases h; exact ⟨_, rfl, goto t _⟩
  case sd3 | sd5 =>
    split at h <;> cases h
    unfold addLevel
    obtain ⟨u, hu, hf⟩ := execAccAddBit_rest _ t.ansBit t
    rw [hu]
    obtain ⟨v, hv, hg⟩ := proceed_next (t := u) (rest := fun u => .next (u.goto _))
      fun u => ⟨_, rfl, goto u _⟩
    exact ⟨v, hv, hf.trans hg⟩
  case rc1 => split at h <;> cases h
  all_goals cases h

/-- The operation of every line is one of the listed codes, when `MDIR` holds `UP` or `DOWN`. -/
theorem line_operation_decodes {l : Label} {s : State} {c : Code} {rest : State → Out}
    (hdir : s.mdir = 0#2 ∨ s.mdir = 1#2) (h : line l s = .operation c rest) :
    ∃ i, decode c = some i := by
  cases l <;> simp only [line, operate] at h
  case gw18 =>
    split at h <;> cases h
    rcases hdir with hd | hd <;> rw [hd]
    · exact ⟨.emitMarkerUp, by decide⟩
    · exact ⟨.emitMarkerDown, by decide⟩
  case rc1 => split at h <;> cases h
  case ae1 | rc10 | gw8 | gw20 | sd2 | sd3 | sd4 | sd5 =>
    split at h <;> cases h; exact Option.isSome_iff_exists.mp (by decide)
  all_goals first | (cases h; exact Option.isSome_iff_exists.mp (by decide)) | cases h

/-! ## A step -/

theorem execCode_environment {c : Code} {s t : State} (h : execCode c s = .next t) :
    s.SameEnvironment t := by
  unfold execCode at h; split at h
  · next i _ =>
    obtain ⟨u, hu, hf⟩ := exec_next i s
    rw [hu] at h; cases h; exact hf
  · cases h

theorem pointStep_environment {s t : State} (h : pointStep s = .next t) : s.SameEnvironment t := by
  unfold pointStep at h; split at h
  · next l _ _ =>
    split at h
    · next c rest hl =>
      cases hc : execCode c s with
      | next u =>
        rw [hc] at h
        obtain ⟨v, hv, hf⟩ := proceed_next (t := u) (line_rest_frame hl)
        rw [hv] at h; cases h
        exact (execCode_environment hc).trans hf.same
      | fault r => rw [hc] at h; cases h
      | refused r => rw [hc] at h; cases h
    · cases h
  · next c stack _ =>
    unfold wordStep at h; split at h
    · next u hu =>
      have hf : s.SameEnvironment u :=
        execCode_environment (s := { s with ctlp := stack }) hu
      split at h <;> cases h <;> exact hf
    · cases h
    · cases h
  · split at h <;> cases h; exact .refl s

/-- A decoder step leaves the capture, the horizons and the schedule as they are. -/
theorem decoderStep_environment {s t : State} (h : decoderStep s = .next t) :
    s.SameEnvironment t := by
  unfold decoderStep at h; split at h
  · have hf := settle_frame settleFuel s
    exact State.SameEnvironment.trans ⟨hf.cap, hf.hz, hf.env⟩ (pointStep_environment h)
  · cases h; exact .refl s

theorem hostInput_environment {a : HostAccess} {s t : State} (h : hostInput a s = .next t) :
    s.SameEnvironment t := by
  unfold hostInput at h; split at h
  · next i _ _ =>
    obtain ⟨u, hu, hf⟩ := exec_next i s
    rw [hu] at h; cases h; exact hf
  · cases h; exact .refl s

/-- What one step is: the decoder's, where the schedule says so or is empty, or the next input's. -/
theorem step_cases {s t : State} (h : step s = .next t) :
    (s.env = [] ∧ decoderStep s = .next t) ∨
    (∃ e rest, s.env = e :: rest ∧ inputStep e { s with env := rest } = .next t) := by
  unfold step stepState at h
  split at h
  · next he => exact .inl ⟨he, h⟩
  · next e rest he => exact .inr ⟨e, rest, he, h⟩

/-- The capture keeps its canonical form: every step keeps it. -/
theorem step_keeps_capture {s t : State} (hs : s.cap.wf = true) (h : step s = .next t) :
    t.cap.wf = true := by
  rcases step_cases h with ⟨_, h⟩ | ⟨e, rest, _, h⟩
  · rw [(decoderStep_environment h).1]; exact hs
  · cases e with
    | decoder => rw [(decoderStep_environment h).1]; exact hs
    | host a => rw [(hostInput_environment h).1]; exact hs
    | bus addr write size data =>
      simp only [inputStep, busInput] at h
      split at h
      · rw [(hostInput_environment h).1]; exact hs
      · cases h; exact hs
    | grow c n => simp only [inputStep, growInput] at h; cases h; exact hs
    | present cap hz => exact presentInput_wf h
    | rst => simp only [inputStep, rstInput] at h; cases h; exact hs

/-- The capture at reset has its canonical form. -/
theorem reset_capture_wf : State.reset.cap.wf = true := Capture.shortest_wf

end Sys2Proof.Machine
end

