-- ==== Sys2Proof/Laws/PerInstr.lean ====
section
/-! SUPPORT. A law of every instruction, one lemma per constructor: its code bits fit its format. -/

namespace Sys2Proof.Laws.CodeFits

/-- The code of a `PROC` or `HA` word has 5 bits; an `OPC` has 8 (30_encoding.md R67). -/
def Statement (i : Instr) : Prop :=
  (encode i).fmt = .opc ∨ (encode i).bits.toNat < 32

theorem curLevelClk : Statement .curLevelClk := .inl rfl
theorem curLevelDout : Statement .curLevelDout := .inl rfl
theorem curLevelDin : Statement .curLevelDin := .inl rfl
theorem curLevelEn : Statement .curLevelEn := .inl rfl
theorem curPosClk : Statement .curPosClk := .inl rfl
theorem curPosDout : Statement .curPosDout := .inl rfl
theorem curPosDin : Statement .curPosDin := .inl rfl
theorem curPosEn : Statement .curPosEn := .inl rfl
theorem curAdvEdgeClk : Statement .curAdvEdgeClk := .inl rfl
theorem curAdvEdgeDout : Statement .curAdvEdgeDout := .inl rfl
theorem curAdvEdgeDin : Statement .curAdvEdgeDin := .inl rfl
theorem curAdvEdgeEn : Statement .curAdvEdgeEn := .inl rfl
theorem curAdvToClk (src : SampleSel) : Statement (.curAdvToClk src) := .inl rfl
theorem curAdvToDout (src : SampleSel) : Statement (.curAdvToDout src) := .inl rfl
theorem curAdvToDin (src : SampleSel) : Statement (.curAdvToDin src) := .inl rfl
theorem curAdvToEn (src : SampleSel) : Statement (.curAdvToEn src) := .inl rfl
theorem curNextEdgeClk : Statement .curNextEdgeClk := .inl rfl
theorem curNextEdgeDout : Statement .curNextEdgeDout := .inl rfl
theorem curNextEdgeDin : Statement .curNextEdgeDin := .inl rfl
theorem curNextEdgeEn : Statement .curNextEdgeEn := .inl rfl
theorem curWouldCrossClk (src : SampleSel) : Statement (.curWouldCrossClk src) := .inl rfl
theorem curWouldCrossDout (src : SampleSel) : Statement (.curWouldCrossDout src) := .inl rfl
theorem curWouldCrossDin (src : SampleSel) : Statement (.curWouldCrossDin src) := .inl rfl
theorem curWouldCrossEn (src : SampleSel) : Statement (.curWouldCrossEn src) := .inl rfl
theorem curHasMoreClk : Statement .curHasMoreClk := .inl rfl
theorem curHasMoreDout : Statement .curHasMoreDout := .inl rfl
theorem curHasMoreDin : Statement .curHasMoreDin := .inl rfl
theorem curHasMoreEn : Statement .curHasMoreEn := .inl rfl
theorem accResetDout : Statement .accResetDout := .inl rfl
theorem accResetDin : Statement .accResetDin := .inl rfl
theorem accAddBitDout0 : Statement .accAddBitDout0 := .inl rfl
theorem accAddBitDout1 : Statement .accAddBitDout1 := .inl rfl
theorem accAddBitDin0 : Statement .accAddBitDin0 := .inl rfl
theorem accAddBitDin1 : Statement .accAddBitDin1 := .inl rfl
theorem poll : Statement .poll := .inl rfl
theorem emitStart : Statement .emitStart := .inl rfl
theorem emitError : Statement .emitError := .inl rfl
theorem emitDisable (src : DisableSel) : Statement (.emitDisable src) := .inl rfl
theorem emitResult : Statement .emitResult := .inl rfl
theorem emitMarkerUp : Statement .emitMarkerUp := .inl rfl
theorem emitMarkerDown : Statement .emitMarkerDown := .inl rfl
theorem emitMarkerError : Statement .emitMarkerError := .inl rfl
theorem procRun : Statement .procRun := .inr (show BitVec.toNat 1#8 < 32 by decide)
theorem procSetup : Statement .procSetup := .inr (show BitVec.toNat 2#8 < 32 by decide)
theorem procResync : Statement .procResync := .inr (show BitVec.toNat 3#8 < 32 by decide)
theorem procAdvActiveEnable : Statement .procAdvActiveEnable := .inr (show BitVec.toNat 4#8 < 32 by decide)
theorem procNextActiveEdge : Statement .procNextActiveEdge := .inr (show BitVec.toNat 5#8 < 32 by decide)
theorem procRaceCheck (emit : Bool) : Statement (.procRaceCheck emit) := .inr (show BitVec.toNat 6#8 < 32 by decide)
theorem procGetWord : Statement .procGetWord := .inr (show BitVec.toNat 7#8 < 32 by decide)
theorem procSampleData : Statement .procSampleData := .inr (show BitVec.toNat 8#8 < 32 by decide)
theorem rdCfg : Statement .rdCfg := .inr (show BitVec.toNat 0x00#8 < 32 by decide)
theorem wrCfg (v : Word) : Statement (.wrCfg v) := .inr (show BitVec.toNat 0x10#8 < 32 by decide)
theorem rdCtrl : Statement .rdCtrl := .inr (show BitVec.toNat 0x04#8 < 32 by decide)
theorem wrCtrl (v : Word) : Statement (.wrCtrl v) := .inr (show BitVec.toNat 0x14#8 < 32 by decide)
theorem rdStatus : Statement .rdStatus := .inr (show BitVec.toNat 0x08#8 < 32 by decide)
theorem wrStatus (v : Word) : Statement (.wrStatus v) := .inr (show BitVec.toNat 0x18#8 < 32 by decide)
theorem rdRsvd : Statement .rdRsvd := .inr (show BitVec.toNat 0x0C#8 < 32 by decide)
theorem wrRsvd (v : Word) : Statement (.wrRsvd v) := .inr (show BitVec.toNat 0x1C#8 < 32 by decide)
theorem go : Statement .go := .inr (show BitVec.toNat 0x14#8 < 32 by decide)
theorem cancel : Statement .cancel := .inr (show BitVec.toNat 0x14#8 < 32 by decide)

end Sys2Proof.Laws.CodeFits
end

