-- ==== Sys2Proof/Tests/Slice0.lean ====
section
/-! SUPPORT. Tests: ill-formed terms are refused, words written out from the spec's encodings decode
as the spec says, single operations give the results of 95_test_vectors.md and of the rules'
examples, and each statement's hypotheses are met by a concrete state. -/

open Sys2Proof Sys2Proof.Machine

namespace Sys2Proof.Tests

/-! ## Well-formedness refuses -/

theorem test_wf_refuses_go_as_write : (Instr.wrCtrl 0x1#32).wf = false := by decide
theorem test_wf_refuses_cancel_as_write : (Instr.wrCtrl 0x2#32).wf = false := by decide
theorem test_wf_takes_both_bits : (Instr.wrCtrl 0x3#32).wf = true := by decide
theorem test_wf_refuses_width_0 : (Record.result 1 2 0 0 0#7).wf = false := by decide
theorem test_wf_refuses_width_65 : (Record.result 1 2 0 0 65#7).wf = false := by decide
theorem test_wf_takes_width_64 : (Record.result 1 2 0 0 64#7).wf = true := by decide

/-- A capture is refused when a transition is at sample 0, at `L`, repeated or out of order, or when
`L` is 0 (20_memory.md R47, R48). -/
theorem test_wf_refuses_captures :
    Waveform.wf 20 ⟨false, [0]⟩ = false ∧ Waveform.wf 20 ⟨false, [20]⟩ = false ∧
    Waveform.wf 20 ⟨false, [5, 5]⟩ = false ∧ Waveform.wf 20 ⟨false, [9, 5]⟩ = false ∧
    Waveform.wf 20 ⟨false, [1, 19]⟩ = true ∧
    Capture.wf ⟨0, .all ⟨false, []⟩⟩ = false := by decide

/-! ## Words of 30_encoding.md, bit by bit -/

/-- `00 ooo 0 cc` (R73). -/
theorem test_decode_level_pos :
    decode ⟨.opc, 0b00_001_0_00, 0⟩ = some .curLevelClk ∧
    decode ⟨.opc, 0b00_001_0_01, 0⟩ = some .curLevelDout ∧
    decode ⟨.opc, 0b00_001_0_10, 0⟩ = some .curLevelDin ∧
    decode ⟨.opc, 0b00_001_0_11, 0⟩ = some .curLevelEn ∧
    decode ⟨.opc, 0b00_010_0_00, 0⟩ = some .curPosClk ∧
    decode ⟨.opc, 0b00_010_0_01, 0⟩ = some .curPosDout ∧
    decode ⟨.opc, 0b00_010_0_10, 0⟩ = some .curPosDin ∧
    decode ⟨.opc, 0b00_010_0_11, 0⟩ = some .curPosEn := by decide

theorem test_decode_advEdge_advTo :
    decode ⟨.opc, 0b00_011_0_00, 0⟩ = some .curAdvEdgeClk ∧
    decode ⟨.opc, 0b00_011_0_01, 0⟩ = some .curAdvEdgeDout ∧
    decode ⟨.opc, 0b00_011_0_10, 0⟩ = some .curAdvEdgeDin ∧
    decode ⟨.opc, 0b00_011_0_11, 0⟩ = some .curAdvEdgeEn ∧
    decode ⟨.opc, 0b00_100_0_00, 0⟩ = some (.curAdvToClk .cs) ∧
    decode ⟨.opc, 0b00_100_0_01, 1⟩ = some (.curAdvToDout .rs) ∧
    decode ⟨.opc, 0b00_100_0_10, 2⟩ = some (.curAdvToDin .rn) ∧
    decode ⟨.opc, 0b00_100_0_11, 0⟩ = some (.curAdvToEn .cs) := by decide

theorem test_decode_nextEdge_wouldCross_hasMore :
    decode ⟨.opc, 0b00_101_0_00, 0⟩ = some .curNextEdgeClk ∧
    decode ⟨.opc, 0b00_101_0_01, 0⟩ = some .curNextEdgeDout ∧
    decode ⟨.opc, 0b00_101_0_10, 0⟩ = some .curNextEdgeDin ∧
    decode ⟨.opc, 0b00_101_0_11, 0⟩ = some .curNextEdgeEn ∧
    decode ⟨.opc, 0b00_110_0_00, 1⟩ = some (.curWouldCrossClk .rs) ∧
    decode ⟨.opc, 0b00_110_0_01, 0⟩ = some (.curWouldCrossDout .cs) ∧
    decode ⟨.opc, 0b00_110_0_10, 0⟩ = some (.curWouldCrossDin .cs) ∧
    decode ⟨.opc, 0b00_110_0_11, 2⟩ = some (.curWouldCrossEn .rn) ∧
    decode ⟨.opc, 0b00_111_0_00, 0⟩ = some .curHasMoreClk ∧
    decode ⟨.opc, 0b00_111_0_01, 0⟩ = some .curHasMoreDout ∧
    decode ⟨.opc, 0b00_111_0_10, 0⟩ = some .curHasMoreDin ∧
    decode ⟨.opc, 0b00_111_0_11, 0⟩ = some .curHasMoreEn := by decide

/-- `01 ooo b aa` (R74) and `10 000001` (R77). -/
theorem test_decode_accumulator_control :
    decode ⟨.opc, 0b01_001_0_01, 0⟩ = some .accResetDout ∧
    decode ⟨.opc, 0b01_001_0_10, 0⟩ = some .accResetDin ∧
    decode ⟨.opc, 0b01_010_0_01, 0⟩ = some .accAddBitDout0 ∧
    decode ⟨.opc, 0b01_010_1_01, 0⟩ = some .accAddBitDout1 ∧
    decode ⟨.opc, 0b01_010_0_10, 0⟩ = some .accAddBitDin0 ∧
    decode ⟨.opc, 0b01_010_1_10, 0⟩ = some .accAddBitDin1 ∧
    decode ⟨.opc, 0b10_000001, 0⟩ = some .poll := by decide

/-- `11 tttt kk` (R76). -/
theorem test_decode_events :
    decode ⟨.opc, 0b11_0001_00, 0⟩ = some .emitStart ∧
    decode ⟨.opc, 0b11_0010_00, 0⟩ = some .emitError ∧
    decode ⟨.opc, 0b11_0011_00, 0⟩ = some (.emitDisable .rs) ∧
    decode ⟨.opc, 0b11_0011_00, 1⟩ = some (.emitDisable .ds) ∧
    decode ⟨.opc, 0b11_0100_00, 0⟩ = some .emitResult ∧
    decode ⟨.opc, 0b11_0101_00, 0⟩ = some .emitMarkerUp ∧
    decode ⟨.opc, 0b11_0101_01, 0⟩ = some .emitMarkerDown ∧
    decode ⟨.opc, 0b11_0101_10, 0⟩ = some .emitMarkerError := by decide

/-- `PROC` ids 1 to 8 (R75). -/
theorem test_decode_procedures :
    decode ⟨.proc, 0b00001, 0⟩ = some .procRun ∧
    decode ⟨.proc, 0b00010, 0⟩ = some .procSetup ∧
    decode ⟨.proc, 0b00011, 0⟩ = some .procResync ∧
    decode ⟨.proc, 0b00100, 0⟩ = some .procAdvActiveEnable ∧
    decode ⟨.proc, 0b00101, 0⟩ = some .procNextActiveEdge ∧
    decode ⟨.proc, 0b00110, 0⟩ = some (.procRaceCheck false) ∧
    decode ⟨.proc, 0b00110, 1⟩ = some (.procRaceCheck true) ∧
    decode ⟨.proc, 0b00111, 0⟩ = some .procGetWord ∧
    decode ⟨.proc, 0b01000, 0⟩ = some .procSampleData := by decide

/-- `W ++ offset[3:0]` (R88). -/
theorem test_decode_host_accesses :
    decode ⟨.ha, 0b0_0000, 0⟩ = some .rdCfg ∧
    decode ⟨.ha, 0b1_0000, 0x5008⟩ = some (.wrCfg 0x5008) ∧
    decode ⟨.ha, 0b0_0100, 0⟩ = some .rdCtrl ∧
    decode ⟨.ha, 0b1_0100, 3⟩ = some (.wrCtrl 3) ∧
    decode ⟨.ha, 0b0_1000, 0⟩ = some .rdStatus ∧
    decode ⟨.ha, 0b1_1000, 7⟩ = some (.wrStatus 7) ∧
    decode ⟨.ha, 0b0_1100, 0⟩ = some .rdRsvd ∧
    decode ⟨.ha, 0b1_1100, 7⟩ = some (.wrRsvd 7) ∧
    decode ⟨.ha, 0b1_0100, 1⟩ = some .go ∧
    decode ⟨.ha, 0b1_0100, 2⟩ = some .cancel := by decide

/-- Reserved codes (R73, R74, R76, R77, R75, R88). -/
theorem test_decode_reserved :
    decode ⟨.opc, 0x00, 0⟩ = none ∧ decode ⟨.opc, 0x0C, 0⟩ = none ∧
    decode ⟨.opc, 0x48, 0⟩ = none ∧ decode ⟨.opc, 0x4D, 0⟩ = none ∧
    decode ⟨.opc, 0x53, 0⟩ = none ∧ decode ⟨.opc, 0x80, 0⟩ = none ∧
    decode ⟨.opc, 0xC0, 0⟩ = none ∧ decode ⟨.opc, 0xD7, 0⟩ = none ∧
    decode ⟨.opc, 0xC5, 0⟩ = none ∧ decode ⟨.proc, 0, 0⟩ = none ∧
    decode ⟨.proc, 9, 0⟩ = none ∧ decode ⟨.ha, 0x01, 0⟩ = none := by decide

/-! ## Records (95_test_vectors.md, 45_events.md) -/

theorem test_record_words :
    (Record.error 10 150).words = ⟨0x1C8, 0x0A, 0x96, 0, 0⟩ ∧
    (Record.result 20 170 0xA5 0 8).words = ⟨0x800D0, 0x14, 0xAA, 0xA5, 0⟩ ∧
    (Record.result 10 264 0x8000000000000000 0 64).words =
      ⟨0x4000D0, 0x0A, 0x108, 0x8000000000000000, 0⟩ ∧
    (Record.marker 12 .down).words = ⟨0xD5, 0x0C, 0, 0, 0⟩ := by decide

theorem test_record_bytes :
    (Record.start 10).words.bytes =
      [0xC4, 0, 0, 0, 0, 0, 0, 0, 0x0A, 0, 0, 0, 0, 0, 0, 0] ++ List.replicate 24 0 := by decide

theorem test_record_refused :
    Rec.read ⟨0xC0, 0, 0, 0, 0⟩ = none ∧ Rec.read ⟨0xD7, 0, 0, 0, 0⟩ = none ∧
    Rec.read ⟨0x2C4, 10, 0, 0, 0⟩ = none := by decide

theorem test_record_text :
    (Record.result 20 170 0xA5 0 8).text = "RESULT 20, 170, 165, 0, 8" ∧
    (Record.marker 20 .up).text = "MARKER 20, UP" := by decide

/-! ## Single operations -/

/-- The state an outcome goes on with. -/
def after : Out → State
  | .next t => t
  | _ => .reset

/-- The channel of 95_test_vectors.md's cursor vectors, on `CLK`, at position `p`, horizon `h`, with
the operand in `CS`. -/
def vec (p : Sample) (h : Nat) (operand : Sample := 0) : State :=
  { State.reset with
    runState := .running, ctlp := [.line .run3]
    cap := ⟨20, ⟨⟨false, [5, 9, 12]⟩, ⟨false, []⟩, ⟨false, []⟩, ⟨false, []⟩⟩⟩
    hz := ⟨h, 20, 20, 20⟩, pos := ⟨p, 0, 0, 0⟩, cs := .holding operand }

/-- V40.1 to V40.4. -/
theorem test_level :
    (after (exec .curLevelClk (vec 0 20))).ansBit = false ∧
    (after (exec .curLevelClk (vec 5 20))).ansBit = true ∧
    (after (exec .curLevelClk (vec 8 20))).ansBit = true ∧
    (after (exec .curLevelClk (vec 9 20))).ansBit = false := by decide

/-- V40.5, V40.6, V40.9, V40.24. -/
theorem test_advEdge_moves :
    (after (exec .curAdvEdgeClk (vec 0 20))).pos.clk = 5 ∧
    (after (exec .curAdvEdgeClk (vec 5 20))).pos.clk = 9 ∧
    (after (exec .curAdvEdgeClk (vec 9 13))).pos.clk = 12 ∧
    (after (exec .curPosClk (vec 5 20))).ansPos = 5 := by decide

/-- V40.7, V40.8. -/
theorem test_advEdge_ends_and_waits :
    (after (exec .curAdvEdgeClk (vec 12 20))).statusWord = 0x00001833#32 ∧
    (after (exec .curAdvEdgeClk (vec 9 12))).runState = .waiting ∧
    (after (exec .curAdvEdgeClk (vec 9 12))).pos.clk = 9 := by decide

/-- V40.10, V40.11, V40.13, V40.14. -/
theorem test_advTo :
    (after (exec (.curAdvToClk .cs) (vec 0 20 10))).pos.clk = 10 ∧
    (after (exec (.curAdvToClk .cs) (vec 10 20 7))).pos.clk = 10 ∧
    (after (exec (.curAdvToClk .cs) (vec 0 6 6))).runState = .waiting ∧
    (after (exec (.curAdvToClk .cs) (vec 0 20 20))).runState = .doneEod := by decide

/-- V40.15, V40.16. -/
theorem test_nextEdge :
    (after (exec .curNextEdgeClk (vec 0 20))).ansPos = 5 ∧
    (after (exec .curNextEdgeClk (vec 0 20))).pos.clk = 0 ∧
    (after (exec .curNextEdgeClk (vec 12 20))).statusWord = 0x00002833#32 := by decide

/-- V40.17 to V40.20. -/
theorem test_wouldCross :
    (after (exec (.curWouldCrossClk .cs) (vec 5 20 9))).ansBit = true ∧
    (after (exec (.curWouldCrossClk .cs) (vec 5 20 8))).ansBit = false ∧
    (after (exec (.curWouldCrossClk .cs) (vec 5 20 5))).ansBit = false ∧
    (after (exec (.curWouldCrossClk .cs) (vec 5 9 9))).runState = .waiting := by decide

/-- V40.21 to V40.23. -/
theorem test_hasMore :
    (after (exec .curHasMoreClk (vec 9 20))).ansBit = true ∧
    (after (exec .curHasMoreClk (vec 9 12))).ansBit = false ∧
    (after (exec .curHasMoreClk (vec 12 20))).ansBit = false := by decide

/-- A run with the configuration `cfg` and nothing sampled. -/
def accState (cfg : Word) (v : BitVec 64) (r : BitVec 7) : State :=
  { State.reset with
    cfgl := cfg, runState := .running, ctlp := [.line .run3], accDout := ⟨v, r⟩, accDin := ⟨v, r⟩ }

/-- V41.1, V41.2, V41.7, V41.9. -/
theorem test_accumulator :
    (after (exec .accAddBitDout1 (accState 0x7008 0 8))).accDout = ⟨0x80, 7⟩ ∧
    (after (exec .accAddBitDout1 (accState 0x7008 0x80 7))).accDout = ⟨0xC0, 6⟩ ∧
    (after (exec .accAddBitDin1 (accState 0x7108 0x01 7))).accDin = ⟨0x03, 6⟩ ∧
    (after (exec .accAddBitDout1 (accState 0x7040 0 64))).accDout = ⟨0x8000000000000000, 63⟩ ∧
    (after (exec .accResetDin (accState 0x7008 5 2))).accDin = ⟨0, 8⟩ := by decide

/-- V41.10. -/
theorem test_accumulator_full :
    (after (exec .accAddBitDout0 (accState 0x7004 0 0))).statusWord = 0x00005166#32 := by decide

/-- The poll's status word (V60.4). -/
theorem test_poll_cancels :
    (after (exec .poll { accState 0x7008 0 0 with cp := true })).statusWord = 0x0000814C#32 := by
  decide

/-- V46.1 to V46.5. -/
theorem test_host_cfg_go :
    (after (exec .rdCfg .reset)).hostData = 0x00007008#32 ∧
    (after (exec (.wrCfg 0xFFFFFFFF) .reset)).cfg = 0x00007F7F#32 ∧
    (after (exec .go { State.reset with cfg := 0x7F7F })).statusWord = 0x00000055#32 ∧
    (after (exec .go { State.reset with cfg := 0x0008 })).statusWord = 0x00000055#32 ∧
    (after (exec .go { State.reset with cfg := 0x5008 })).statusWord = 0x00010001#32 := by decide

/-- V46.8, V46.9, V46.11. -/
theorem test_host_cancel_ctrl :
    (after (exec .cancel .reset)).cp = false ∧
    (after (exec .rdCtrl { State.reset with hostData := 7 })).hostData = 0 ∧
    (after (exec .rdRsvd { State.reset with hostData := 7 })).hostData = 0 ∧
    (after (exec (.wrCtrl 3) { State.reset with cfg := 0x5008 })).cp = true ∧
    (after (exec (.wrCtrl 3) { State.reset with cfg := 0x5008 })).runState = .running := by decide

/-- V46.10: an 8-bit read at offset 1 returns 0. -/
theorem test_refused_read :
    (after (step { State.reset with
      hostData := 7, env := [.host ⟨false, .byte, 1, 0⟩] })).hostData = 0 := by rfl

/-- V70.2: the status word of a decoder waiting at `RC.6` with a cancellation pending. -/
theorem test_status_waiting :
    ({ State.reset with
      runState := .waiting, op := 0x30, cp := true
      ctlp := [.line .rc6, .line .gw6, .line .run4] } : State).statusWord = 0x0006300A#32 := by
  decide

/-- R30: in the first `RESYNC` of a run the call at `AE.2` pushes: `RUN` > `RESYNC` >
`ADV_ACTIVE_ENABLE` > `NEXT_ACTIVE_EDGE`. -/
theorem test_first_nesting :
    (settle settleFuel { State.reset with
      cfgl := 0x7008, runState := .running, ctlp := [.line .run1] }).ctlp =
      [.line .na1, .line .ae3, .line .rs2, .line .run3] := by decide

/-- R30: the deepest nesting is four labels, `RUN` > `GET_WORD` > `RESYNC` and `NEXT_ACTIVE_EDGE` in
the place of `ADV_ACTIVE_ENABLE`; `PROC` names `NEXT_ACTIVE_EDGE`. -/
theorem test_deepest_nesting :
    let s := settle settleFuel { State.reset with
      cfgl := 0x7008, runState := .running, rt := true, ctlp := [.line .gw6, .line .run4] }
    s.ctlp = [.line .ae2n1, .line .rs2, .line .gwRet, .line .run4] ∧ s.proc = 5 ∧
    s.runState = .running := by decide

/-- R167: `RESYNC`'s `return` goes to `GET_WORD`: after `START` `PROC` reads 7. -/
theorem test_resync_returns_to_get_word :
    (after (decoderStep { State.reset with
      runState := .running, cs := .holding 5
      ctlp := [.line .rs9, .line .gwRet, .line .run4] })).proc = 7 := by decide

/-- R86: `WAITDONE` ends at `STATE` 3, 4, 5 and 6 and no other. -/
theorem test_waitDone :
    ((List.range 8).map fun k => waitDone (BitVec.ofNat 32 k)) =
      [false, false, false, true, true, true, true, false] := by decide

/-- R87: the configuration of E1 is written 0x0000_5008, that of P2 0x0000_3704. -/
theorem test_cfgWord :
    cfgWord 8 .msbFirst false .leading false true false true = 0x00005008#32 ∧
    cfgWord 4 .lsbFirst true .trailing false true true false = 0x00003704#32 := by decide

/-- A table word placed in the reset state runs at the next step. -/
theorem test_placed_word_runs :
    (after (step (State.reset.withFetchWord 8 0x10))).op = 0x10 ∧
    (after (step (State.reset.withFetchWord 40 0x0000500810))).cfg = 0x5008 ∧
    (after (step (State.reset.withFetchWord 8 0x05))).ctlp = [.line .na1] := by decide

/-! ## Witnesses: states that meet the hypotheses of the statements -/

/-- A running state of a word of two bits, enable active low: clock edges at 10, 12, 14, 16, the
enable active from 5 to 29. -/
def demo : State :=
  { State.reset with
    cfgl := 0x7002, runState := .running
    cap := ⟨40, ⟨⟨false, [10, 12, 14, 16]⟩, ⟨false, [11]⟩, ⟨false, []⟩, ⟨true, [5, 30]⟩⟩⟩
    hz := .all 40 }

/-- A property of every sample of a list, checked along the list. -/
theorem all_of {l : List Sample} {P : Sample → Prop} [DecidablePred P]
    (h : (l.all fun u => decide (P u)) = true) : ∀ u ∈ l, P u := by simpa using h

theorem nextAvailable_of {s : State} {c : Channel} {t : Sample}
    (h₁ : t ∈ (s.cap.wave.get c).edges) (h₂ : s.pos.get c < t) (h₃ : t.toNat < s.hz.get c)
    (h₄ : ((s.cap.wave.get c).edges.all fun u =>
      decide (s.pos.get c < u → u.toNat < s.hz.get c → t ≤ u)) = true) :
    s.NextAvailable c t := ⟨h₁, h₂, h₃, all_of h₄⟩

theorem noneAvailable_of {s : State} {c : Channel}
    (h : ((s.cap.wave.get c).edges.all fun u =>
      decide (s.pos.get c < u → ¬ u.toNat < s.hz.get c)) = true) : s.NoneAvailable c := all_of h

theorem firstAfter_of {s : State} {c : Channel} {t : Sample}
    (h₁ : t ∈ (s.cap.wave.get c).edges) (h₂ : s.pos.get c < t)
    (h₃ : ((s.cap.wave.get c).edges.all fun u => decide (s.pos.get c < u → t ≤ u)) = true) :
    s.FirstAfter c t := ⟨h₁, h₂, all_of h₃⟩

theorem nextActive_of {s : State} {t : Sample} (h₁ : t ∈ s.cap.wave.en.edges)
    (h₂ : s.pos.en < t) (h₃ : s.cap.wave.en.levelAt t = s.enpol)
    (h₄ : (s.cap.wave.en.edges.all fun u =>
      decide (s.pos.en < u → s.cap.wave.en.levelAt u = s.enpol → t ≤ u)) = true) :
    s.NextActive t := ⟨h₁, h₂, h₃, all_of h₄⟩

theorem witness_DecodeInvertsEncode : (Instr.wrCfg 0x5008).wf = true := by decide

theorem witness_EncodeInvertsDecode : decode ⟨.opc, 0x08, 0⟩ = some .curLevelClk := by decide

theorem witness_RecordsReadBack :
    (Record.result 1 2 3 4 64).wf = true ∧ (Record.result 1 2 3 4 1).wf = true ∧
    Rec.read ⟨0xC4, 10, 0, 0, 0⟩ = some (.start 10) := by decide

/-- Also for `CurPos` and `CurHasMore`, whose one hypothesis is the first of these. -/
theorem witness_CurLevel :
    demo.present .clk = true ∧ demo.cap.wf = true ∧ demo.pos.get .clk = 0#64 := by decide

/-- Also for `CurNextEdge`, whose hypotheses are the same; the last available sample is 12. -/
theorem witness_CurAdvEdge :
    demo.present .clk = true ∧ demo.cap.wf = true ∧
    { demo with hz := ⟨11, 40, 40, 40⟩ }.NextAvailable .clk 10 ∧
    ({ demo with pos := ⟨16, 0, 0, 0⟩ }.NoneAvailable .clk ∧
      { demo with pos := ⟨16, 0, 0, 0⟩ }.Complete .clk) ∧
    ({ demo with hz := ⟨10, 40, 40, 40⟩ }.NoneAvailable .clk ∧
      ¬ { demo with hz := ⟨10, 40, 40, 40⟩ }.Complete .clk) :=
  ⟨by decide, by decide, nextAvailable_of (by decide) (by decide) (by decide) (by decide), ⟨noneAvailable_of (by decide), rfl⟩, ⟨noneAvailable_of (by decide), by unfold State.Complete; decide⟩⟩

/-- Also for `CurWouldCross`: an operand at `P_c`, just after it, at the horizon of a complete and
of an incomplete channel. -/
theorem witness_CurAdvTo :
    (vec 5 20 5).present .clk = true ∧ ((vec 5 20 5).reg (selReg .cs)).written = true ∧
    (vec 5 20 5).cs.val ≤ (vec 5 20 5).pos.get .clk ∧
    ((vec 5 7 6).pos.get .clk < (vec 5 7 6).cs.val ∧
      (vec 5 7 6).cs.val.toNat < (vec 5 7 6).hz.get .clk) ∧
    ((vec 5 20 20).pos.get .clk < (vec 5 20 20).cs.val ∧
      (vec 5 20 20).hz.get .clk ≤ (vec 5 20 20).cs.val.toNat ∧ (vec 5 20 20).Complete .clk) ∧
    ((vec 5 7 7).pos.get .clk < (vec 5 7 7).cs.val ∧
      (vec 5 7 7).hz.get .clk ≤ (vec 5 7 7).cs.val.toNat ∧ ¬ (vec 5 7 7).Complete .clk) := by
  unfold State.Complete; and_intros <;> decide

/-- An absent channel; unwritten registers; an entry past the marker buffer; a full buffer. -/
theorem witness_InternalFaults :
    { demo with cfgl := 0x1002 }.present .en = false ∧
    (demo.present .clk = true ∧ (demo.reg (selReg .rn)).written = false) ∧
    demo.cs.written = false ∧ demo.es.written = false ∧ demo.fs.written = false ∧
    (demo.reg (disableReg .ds)).written = false ∧
    ({ demo with mb := [7], k := 1 } : State).mb.length ≤ 1 ∧
    ({ demo with mb := List.replicate 64 0 } : State).mb.length = 64 := by decide

theorem witness_AccReset :
    { demo with ctlp := [.line .gw2] }.ctlp = .line .gw2 :: [] ∧
    { demo with ctlp := [.line .gw3, .line .run4] }.ctlp = .line .gw3 :: [.line .run4] := by decide

/-- `R_a` = 0, 1 and 64, in both shift orders. -/
theorem witness_AccAddBit :
    ((accState 0x7008 0 0).acc .dout).r = 0#7 ∧ ((accState 0x7008 0 1).acc .dout).r ≠ 0#7 ∧
    ((accState 0x7140 0 64).acc .din).r ≠ 0#7 ∧
    (accState 0x7008 0 1).cfgl.getLsbD 8 = false ∧
    (accState 0x7140 0 64).cfgl.getLsbD 8 = true := by decide

/-- Words of 1 and of 64 bits. -/
theorem witness_ValueLaw :
    (cfgLegal (accState 0x7001 0 0).cfgl = true ∧ [true].length = (accState 0x7001 0 0).N) ∧
    (cfgLegal (accState 0x7140 0 0).cfgl = true ∧
      (List.replicate 64 true).length = (accState 0x7140 0 0).N) := by decide

theorem witness_BitReversalLaw :
    cfgLegal (accState 0x7004 0 0).cfgl = true ∧
    (accState 0x7004 0 0).N = (accState 0x7104 0 0).N ∧
    [true, true, false, false].length = (accState 0x7004 0 0).N ∧
    cfgOrder (accState 0x7004 0 0).cfgl = .msbFirst ∧
    cfgOrder (accState 0x7104 0 0).cfgl = .lsbFirst := by decide

theorem witness_PollCancel :
    { demo with cp := true }.cp = true ∧ demo.cp = false ∧
    ({ demo with cp := true, ctlp := [.line .gw1, .line .run4] }.inRun = true) := by decide

theorem witness_EventEmission :
    { demo with cs := .holding 5 }.cs.written = true ∧
    { demo with es := .holding 5 }.es.written = true ∧
    { demo with rs := .holding 5 }.rs.written = true ∧
    { demo with ds := .holding 5 }.ds.written = true ∧
    { demo with fs := .holding 5 }.fs.written = true ∧
    ({ demo with mb := [7, 8], k := 1 } : State).k.toNat <
      ({ demo with mb := [7, 8], k := 1 } : State).mb.length := by decide

/-- Three labels on the stack, and four. -/
theorem witness_ProcedureEntry :
    { demo with ctlp := List.replicate 3 (.line .run3) }.ctlp.length < 4 ∧
    4 ≤ { demo with ctlp := List.replicate 4 (.line .run3) }.ctlp.length := by decide

/-- The four rows of the marker polarity table. -/
theorem witness_SetupMarkerDirection :
    demo.ctlp.length < 4 ∧
    ((0x7002#32).getLsbD 9 = false ∧ (0x7002#32).getLsbD 10 = false) ∧
    ((0x7402#32).getLsbD 9 = false ∧ (0x7402#32).getLsbD 10 = true) ∧
    ((0x7202#32).getLsbD 9 = true ∧ (0x7202#32).getLsbD 10 = false) ∧
    ((0x7602#32).getLsbD 9 = true ∧ (0x7602#32).getLsbD 10 = true) := by decide

theorem witness_RunLoop :
    { demo with ctlp := [.line .run1] }.ctlp = [.line .run1] ∧
    { demo with ctlp := [.line .run4] }.ctlp = [.line .run4] := by decide

/-- The enable inactive at the cursor, and no active-going edge left. -/
theorem witness_NextActiveEdge :
    demo.runState = .running ∧ demo.env = [] ∧ demo.ctlp.length < 4 ∧ demo.present .en = true ∧
    demo.cap.wf = true ∧ demo.Complete .en ∧ demo.NextActive 5 ∧
    ∀ t, ¬ { demo with pos := ⟨0, 0, 0, 5⟩ }.NextActive t := by
  refine ⟨by decide, by decide, by decide, by decide, by decide,
    rfl, nextActive_of (by decide) (by decide) (by decide) (by decide), ?_⟩
  rintro t ⟨hm, hp, hl, -⟩
  have : t = 5#64 ∨ t = 30#64 := by simpa [demo] using hm
  rcases this with rfl | rfl
  · revert hp; decide
  · revert hl; decide

theorem witness_AdvActiveEnable :
    ({ demo with cfgl := 0x1002 }.present .en = false) ∧
    demo.present .en = true ∧
    { demo with ctlp := List.replicate 3 (.line .run3) }.ctlp.length < 4 ∧ demo.cap.wf = true ∧
    demo.Complete .en ∧ demo.Complete .clk ∧ demo.NextActive 5 ∧
    { demo with pos := ⟨5, 0, 0, 0⟩ }.pos.clk ≤ 5 ∧
    { demo with ctlp := [.line .ae2, .line .rs2, .line .run3] }.ctlp =
      .line .ae2 :: [.line .rs2, .line .run3] ∧
    [Point.line .rs2, .line .gwRet, .line .run4].length = 3 :=
  ⟨by decide, by decide, by decide, by decide, rfl, rfl,
    nextActive_of (by decide) (by decide) (by decide) (by decide), by decide, by decide, by decide⟩

theorem witness_RaceCheckNoEnable :
    { demo with cfgl := 0x1002 }.present .en = false ∧ demo.ctlp.length < 4 := by decide

/-- The clock's last edge crossed, the enable active since 5, its edge at 30 available. -/
def caseOne : State := { demo with pos := ⟨16, 0, 0, 5⟩, hz := ⟨31, 40, 40, 31⟩ }

/-- `RACE_CHECK`'s case 1 is met there. -/
theorem witness_RaceCheckCaseOne :
    caseOne.runState = .running ∧ caseOne.env = [] ∧ caseOne.ctlp.length < 4 ∧ caseOne.present .en = true ∧
    caseOne.NoneAvailable .clk ∧ caseOne.levelOf .en = caseOne.enpol ∧ caseOne.NextAvailable .en 30 ∧
    (30#64).toNat < caseOne.hz.clk :=
  ⟨by decide, by decide, by decide, by decide, noneAvailable_of (by decide), by decide, nextAvailable_of (by decide) (by decide) (by decide) (by decide), by decide⟩

/-- No enable transition up to the clock's next edge; one at exactly that edge. -/
def caseTwo (en : List Sample) : State :=
  { demo with
    pos := ⟨0, 0, 0, 5⟩
    cap := { demo.cap with wave := { demo.cap.wave with en := ⟨true, en⟩ } } }

/-- `RACE_CHECK`'s case 2 is met there, in both its outcomes. -/
theorem witness_RaceCheckCaseTwo :
    ((caseTwo [5, 30]).runState = .running ∧ (caseTwo [5, 30]).env = [] ∧ (caseTwo [5, 30]).ctlp.length < 4 ∧ (caseTwo [5, 30]).present .en = true ∧
      (caseTwo [5, 30]).NextAvailable .clk 10 ∧ (10#64).toNat < (caseTwo [5, 30]).hz.en ∧
      ∀ t ∈ (caseTwo [5, 30]).cap.wave.en.edges, ¬ ((caseTwo [5, 30]).pos.en < t ∧ t ≤ 10)) ∧
    ((caseTwo [5, 10]).NextAvailable .clk 10 ∧ (caseTwo [5, 10]).FirstAfter .en 10 ∧ 10#64 ≤ 10#64) :=
  ⟨⟨by decide, by decide, by decide, by decide, nextAvailable_of (by decide) (by decide) (by decide) (by decide), by decide, all_of (by decide)⟩, ⟨nextAvailable_of (by decide) (by decide) (by decide) (by decide), firstAfter_of (by decide) (by decide) (by decide), by decide⟩⟩

theorem witness_RaceCheckReport :
    let s : State := { demo with ctlp := [.line .rc10, .line .gw6], rs := .holding 30 }
    s.inRun = true ∧ s.rs.written = true ∧ { s with raceEmit := true }.raceEmit = true ∧
    s.raceEmit = false := by decide

/-- The clock idle at sample 0; the clock High there with its first edge at 10. -/
def noEnable (cfg : Word) : State := { demo with cfgl := cfg }

/-- `RESYNC` without the enable channel, in both its outcomes. -/
theorem witness_ResyncWithoutEnable :
    ((noEnable 0x1002).runState = .running ∧ (noEnable 0x1002).env = [] ∧ (noEnable 0x1002).ctlp.length < 3 ∧ (noEnable 0x1002).present .en = false ∧
      (noEnable 0x1002).levelOf .clk = (noEnable 0x1002).cpol) ∧
    ((noEnable 0x1202).present .en = false ∧ (noEnable 0x1202).levelOf .clk ≠ (noEnable 0x1202).cpol ∧ (noEnable 0x1202).NextAvailable .clk 10) :=
  ⟨⟨by decide, by decide, by decide, by decide, by decide⟩, ⟨by decide, by decide, nextAvailable_of (by decide) (by decide) (by decide) (by decide)⟩⟩

/-- At sample 5 with the idle level as configured; with the other idle level configured and a
further active-going edge at 35. -/
def candidate (cfg : Word) (en : List Sample) : State :=
  { demo with
    cfgl := cfg, ctlp := [.line .rs2, .line .run3], cs := .holding 5, pos := ⟨5, 0, 0, 5⟩
    cap := { demo.cap with wave := { demo.cap.wave with en := ⟨true, en⟩ } } }

/-- The polarity check, in both its outcomes. -/
theorem witness_PolarityCheck :
    ((candidate 0x7002 [5, 30]).runState = .running ∧ (candidate 0x7002 [5, 30]).env = [] ∧ (candidate 0x7002 [5, 30]).cs.written = true ∧ (candidate 0x7002 [5, 30]).levelOf .clk = (candidate 0x7002 [5, 30]).cpol) ∧
    ((candidate 0x7202 [5, 30, 35]).levelOf .clk ≠ (candidate 0x7202 [5, 30, 35]).cpol ∧ [Point.line .run3].length < 3 ∧ (candidate 0x7202 [5, 30, 35]).present .en = true ∧
      (candidate 0x7202 [5, 30, 35]).cap.wf = true ∧ (candidate 0x7202 [5, 30, 35]).Complete .en ∧ (candidate 0x7202 [5, 30, 35]).Complete .clk ∧ (candidate 0x7202 [5, 30, 35]).cs.written = true ∧
      (candidate 0x7202 [5, 30, 35]).NextActive 35 ∧ (candidate 0x7202 [5, 30, 35]).pos.clk ≤ 35) :=
  ⟨⟨by decide, by decide, by decide, by decide⟩, ⟨by decide, by decide, by decide, by decide, rfl, rfl, by decide, nextActive_of (by decide) (by decide) (by decide) (by decide), by decide⟩⟩

/-- Both data channels present, the clock at 10, its sample just available. -/
def atSample : State :=
  { demo with
    pos := ⟨10, 0, 10, 5⟩, hz := ⟨40, 11, 11, 40⟩, accDout := ⟨0, 2⟩, accDin := ⟨0, 1⟩
    mb := List.replicate 63 0 }

/-- `SAMPLE_DATA` with 63 entries in the marker buffer. -/
theorem witness_SampleData :
    atSample.runState = .running ∧ atSample.env = [] ∧ atSample.ctlp.length < 4 ∧ atSample.mb.length < 64 ∧
    ∀ a, atSample.present (accChannel a) = true →
      atSample.pos.get (accChannel a) ≤ atSample.pos.clk ∧ atSample.pos.clk.toNat < atSample.hz.get (accChannel a) ∧
      (atSample.acc a).r ≠ 0#7 := by
  refine ⟨by decide, by decide, by decide, by decide, fun a => ?_⟩
  cases a <;> decide

theorem witness_WordEndsAtToggle :
    let s : State := { demo with rt := true, nr := true, rs := .holding 30, ds := .holding 30 }
    [Point.line .run4, .line .run4].length < 3 ∧ s.rt = true ∧ s.rs.written = true ∧
    s.inRun = true ∧ s.nr = true ∧ s.ds.written = true ∧
    { s with cs := .holding 5 }.cs.written = true := by decide

/-- The word of two bits whose four clock edges all lie inside the transaction. -/
def atWord : State := { demo with pos := ⟨5, 5, 5, 5⟩, ctlp := [.line .run4] }

/-- A clean word lies ahead. -/
theorem witness_CleanWordDecodes :
    atWord.runState = .running ∧ atWord.env = [] ∧ atWord.ctlp.length < 3 ∧ atWord.cp = false ∧
    cfgLegal atWord.cfgl = true ∧ atWord.cap.wf = true ∧ (∀ c, atWord.present c = true → atWord.Complete c) ∧
    (∀ a, atWord.present (accChannel a) = true → atWord.pos.get (accChannel a) ≤ atWord.pos.clk) ∧
    (atWord.mdir = 0#2 ∨ atWord.mdir = 1#2) ∧ 2 * atWord.N ≤ atWord.clockEdges.length ∧ atWord.present .en = true ∧
    ∀ t ∈ atWord.cap.wave.en.edges, ¬ (atWord.pos.en < t ∧ t ≤ atWord.clockEdges.getD (2 * atWord.N - 1) 0#64) := by
  refine ⟨by decide, by decide, by decide, by decide, by decide, by decide, fun c => ?_,
    fun a => ?_, by decide, by decide, by decide, all_of (by decide)⟩
  · cases c <;> exact fun _ => rfl
  · cases a <;> decide

/-- `GO` in a run, between runs with a legal and with an illegal `CFG`; `N` = 1, 64, 0, 65. -/
theorem witness_GoWrite :
    (0x1#32).getLsbD 0 = true ∧ (0x3#32).getLsbD 0 = true ∧ demo.inRun = true ∧
    State.reset.inRun = false ∧
    ([0x1001#32, 0x2040#32].all fun cfg => cfgLegal cfg) = true ∧
    ([0x7000#32, 0x7041#32, 0x4008#32].all fun cfg => !cfgLegal cfg) = true := by decide

theorem witness_CancelWrite :
    ((0x2#32).getLsbD 0 = false ∧ (0x2#32).getLsbD 1 = true) ∧
    ((0xFFFFFFFE#32).getLsbD 0 = false ∧ (0xFFFFFFFE#32).getLsbD 1 = true) ∧
    demo.runState = .running ∧
    (State.reset.runState ≠ .running ∧ State.reset.runState ≠ .waiting) := by decide

theorem witness_StatusRead :
    demo.ctlp = [] ∧
    { demo with ctlp := [.line .rc6, .line .gw6] }.ctlp = .line .rc6 :: [.line .gw6] := by decide

theorem witness_OtherAccesses :
    (0xFFFFFFFC#32).getLsbD 0 = false ∧ (0xFFFFFFFC#32).getLsbD 1 = false := by decide

/-- A byte access at an aligned offset, a word access at each kind of other offset. -/
theorem witness_RefusedAccess :
    { demo with env := [.host ⟨true, .byte, 0, 0⟩] }.env = .host ⟨true, .byte, 0, 0⟩ :: [] ∧
    AccessSize.byte ≠ .word ∧
    ∀ o ∈ [1, 2, 3, 5, 7, 9, 11, 13, 15#4], o.toNat % 4 ≠ 0 := by decide

/-- The window's first and last byte, and the bytes on either side. -/
theorem witness_RegisterWindow :
    Config.spdBase + 0 = Config.spdBase + 0 ∧ 15 < 16 ∧
    Config.spdBase + 16 ≤ Config.spdBase + 16 ∧
    ∀ n, Config.spdBase = n + 1 → n < Config.spdBase :=
  ⟨rfl, by decide, Nat.le_refl _, fun n h => by omega⟩

theorem witness_StepRunsDecoded :
    let s : State := { demo with ctlp := [.line .gw1, .line .run4] }
    let u : State := { demo with ctlp := [.word ⟨.opc, 0x10, 0⟩] }
    s.env = [] ∧ s.inRun = true ∧ s.fetch = some ⟨.opc, 0x81, 0⟩ ∧
    decode ⟨.opc, 0x81, 0⟩ = some .poll ∧ u.inRun = true ∧
    decode ⟨.opc, 0x10, 0⟩ = some .curPosClk ∧
    decode (HostAccess.code ⟨true, .word, 4, 1⟩) = some .go := by decide

theorem witness_HardwareReset :
    { demo with env := [.rst] }.env = .rst :: [] := by decide

/-- A growing horizon; a capture presented between runs, in a run, and one that is none. -/
theorem witness_ProviderInputs :
    { demo with env := [.grow .clk 41] }.env = .grow .clk 41 :: [] ∧
    demo.inRun = true ∧ State.reset.inRun = false ∧ demo.cap.wf = true ∧
    Capture.wf ⟨0, .all ⟨false, []⟩⟩ = false ∧ 1 ≤ (PerChannel.all 40).get Channel.clk ∧
    (PerChannel.all 40).get Channel.clk ≤ demo.cap.len := by decide

/-! ### Witnesses of the invariants -/

/-- A state of `demo`'s run, at the given place of the program. -/
def demoAt (ctlp : List Point) (p : PerChannel Sample) : State :=
  { demo with
    cfg := 0x7002, ctlp := ctlp, cs := .holding 5, rn := .holding 10, pos := p
    accDout := ⟨0, 2⟩, accDin := ⟨0, 2⟩ }

theorem sound_of_demoAt (ctlp : List Point) (p : PerChannel Sample) (hctlp : ctlp ≠ [])
    (hstack : stackOk ctlp = true ∧ ctlp.length ≤ 4 ∧
      (ctlp.all fun q => q ∉ [.line .ae2n1, .line .ae2n2, .line .ae2n3]) = true)
    (hp : ∀ c, (p.get c).toNat < 40) : (demoAt ctlp p).Sound where
  capture := show demo.cap.wf = true by decide
  horizon := show ∀ c, 1 ≤ demo.hz.get c ∧ demo.hz.get c ≤ demo.cap.len by
    intro c; cases c <;> and_intros <;> decide
  reserved := show 0x7002#32 &&& cfgDefined = 0x7002#32 ∧ 0x7002#32 &&& cfgDefined = 0x7002#32 by
    decide
  legal := show cfgLegal 0x7002#32 = true by decide
  stack := hstack.1
  depth := hstack.2.1
  full := by
    rintro ⟨l, hl, h⟩
    change State.top (demoAt ctlp p) = some l at h
    cases ctlp with
    | nil => cases h
    | cons q rest =>
      have hq : q = .line l := by
        cases q with
        | word c => cases h
        | line m => cases h; rfl
      have := hstack.2.2
      rw [List.all_cons, Bool.and_eq_true] at this
      have hn := this.1
      subst hq
      simp only [List.mem_cons, List.not_mem_nil, or_false] at hl
      rcases hl with rfl | rfl | rfl <;> exact absurd hn (by decide)
  running := ⟨fun _ => hctlp, fun _ => rfl⟩
  position := fun _ c _ => by cases c <;> exact hp _
  markers := Nat.zero_le 64
  direction := .inl rfl
  remaining := fun a => by
    cases a <;> exact (show (2#7).toNat ≤ (cfgN 0x7002#32).toNat by decide)
  width := fun a => by
    cases a <;> exact (show (0#64).toNat < 2 ^ (cfgN 0x7002#32).toNat by decide)

/-- At the polarity check of a transaction start at sample 5. -/
def atStart : State := demoAt [.line .rs2, .line .run3] ⟨5, 0, 0, 5⟩

/-- Before the first clock edge of a word, at 10. -/
def atEdge : State := demoAt [.line .gw7, .line .run4] ⟨5, 0, 0, 5⟩

theorem atStart_sound : atStart.Sound :=
  sound_of_demoAt _ _ (by decide) (by decide) (by intro c; cases c <;> decide)

theorem atEdge_sound : atEdge.Sound :=
  sound_of_demoAt _ _ (by decide) (by decide) (by intro c; cases c <;> decide)

theorem atStart_top : atStart.top = some .rs2 := rfl
theorem atEdge_top : atEdge.top = some .gw7 := rfl

theorem atStart_lines {l : Label} (h : Point.line l ∈ atStart.ctlp) : l = .rs2 ∨ l = .run3 := by
  simpa [atStart, demoAt] using h

theorem atEdge_lines {l : Label} (h : Point.line l ∈ atEdge.ctlp) : l = .gw7 ∨ l = .run4 := by
  simpa [atEdge, demoAt] using h

theorem witness_Proper_atStart : atStart.Proper where
  sound := atStart_sound
  written := by
    intro l hl r hr
    rw [atStart_top] at hl; cases hl
    have : r = .cs := by simpa [needsReg] using hr
    subst this; rfl
  spanStart := fun h => by rcases atStart_lines h with h | h <;> cases h
  enable := fun l h hn => by rcases atStart_lines h with rfl | rfl <;> exact absurd hn (by decide)
  noEnable := fun l h hn => by
    rcases atStart_lines h with rfl | rfl <;> exact absurd hn (by decide)
  first := fun l h hn => by rcases atStart_lines h with rfl | rfl <;> exact absurd hn (by decide)
  toggle := fun h => absurd h (by decide)
  deferred := fun h => absurd h (by decide)
  fresh := fun _ _ _ => rfl
  toggled := fun h => absurd h (by decide)
  setup := fun _ _ _ => by decide
  raceCall := fun l m h _ hp => by rw [atStart_top] at h; cases h; exact absurd hp (by decide)
  sampleCall := fun l h hp => by rw [atStart_top] at h; cases h; exact absurd hp (by decide)
  lastBit := fun h => by rcases h with h | h | h <;> rcases atStart_lines h with h | h <;> cases h
  index := fun l h hn => by rcases atStart_lines h with rfl | rfl <;> exact absurd hn (by decide)
  count := fun n h => absurd h (by simp [show atStart.taken = none by decide])
  left := fun n h => absurd h (by simp [show atStart.taken = none by decide])
  emitted := fun h => absurd h (by decide)
  firstReset := fun h => absurd h (by decide)

theorem witness_Proper_atEdge : atEdge.Proper where
  sound := atEdge_sound
  written := by
    intro l hl r hr
    rw [atEdge_top] at hl; cases hl
    simp [needsReg] at hr
  spanStart := fun h => by rcases atEdge_lines h with h | h <;> cases h
  enable := fun l h hn => by rcases atEdge_lines h with rfl | rfl <;> exact absurd hn (by decide)
  noEnable := fun l h hn => by
    rcases atEdge_lines h with rfl | rfl <;> exact absurd hn (by decide)
  first := fun l h hn => by rcases atEdge_lines h with rfl | rfl <;> exact absurd hn (by decide)
  toggle := fun h => absurd h (by decide)
  deferred := fun h => absurd h (by decide)
  fresh := fun _ _ _ => rfl
  toggled := fun h => absurd h (by decide)
  setup := fun _ _ _ => by decide
  raceCall := fun l m h _ hp => by rw [atEdge_top] at h; cases h; exact absurd hp (by decide)
  sampleCall := fun l h hp => by rw [atEdge_top] at h; cases h; exact absurd hp (by decide)
  lastBit := fun h => by rcases h with h | h | h <;> rcases atEdge_lines h with h | h <;> cases h
  index := fun l h hn => by
    rcases atEdge_lines h with rfl | rfl <;> revert hn <;> decide
  count := fun n h => by rw [show atEdge.taken = some 0 by decide] at h; cases h; rfl
  left := fun n h a _ => by
    rw [show atEdge.taken = some 0 by decide] at h; cases h; cases a <;> rfl
  emitted := fun h => absurd h (by decide)
  firstReset := fun h => absurd h (by decide)

/-- A state of a run, at the polarity check, meets the invariant; and its step goes on. -/
theorem witness_StepKeepsInvariant :
    atStart.Inv ∧ atStart.inRun = true ∧ ∃ t, step atStart = .next t := by
  refine ⟨⟨witness_Proper_atStart, fun _ _ => ?_⟩, by decide, _, rfl⟩
  exact {
    clear := all_of (by decide)
    active := fun _ _ _ => by decide
    inactive := fun ⟨l, hl, h⟩ => by rw [atStart_top] at h; cases h; exact absurd hl (by decide)
    behind := fun ⟨l, hl, h⟩ => by rw [atStart_top] at h; cases h; exact absurd hl (by decide)
    target := fun _ => by decide
    aligned := fun _ => by decide
    nextClock := fun h => absurd h (by decide)
    advance := fun h => by
      rcases h with ⟨l, hl, h⟩ | ⟨⟨l, hl, h⟩, _⟩ <;> rw [atStart_top] at h <;> cases h <;>
        exact absurd hl (by decide)
    toggle := fun h => by
      rcases h with ⟨l, hl, h⟩ | ⟨⟨l, hl, h⟩, _⟩ <;> rw [atStart_top] at h <;> cases h <;>
        exact absurd hl (by decide)
    deferred := fun ⟨l, hl, h⟩ => by rw [atStart_top] at h; cases h; exact absurd hl (by decide) }

/-- A state about to cross a word's first clock edge meets the invariant, and its decoder step moves
the clock. -/
theorem witness_ClockMovesOnlyWhereChecked :
    atEdge.Inv ∧ atEdge.inRun = true ∧
    ∃ t, decoderStep atEdge = .next t ∧ t.pos.clk ≠ atEdge.pos.clk := by
  refine ⟨⟨witness_Proper_atEdge, fun _ _ => ?_⟩, by decide, _, rfl, by decide⟩
  exact {
    clear := all_of (by decide)
    active := fun _ _ _ => by decide
    inactive := fun ⟨l, hl, h⟩ => by rw [atEdge_top] at h; cases h; exact absurd hl (by decide)
    behind := fun ⟨l, hl, h⟩ => by rw [atEdge_top] at h; cases h; exact absurd hl (by decide)
    target := fun ⟨l, hl, h⟩ => by rw [atEdge_top] at h; cases h; exact absurd hl (by decide)
    aligned := fun ⟨l, hl, h⟩ => by rw [atEdge_top] at h; cases h; exact absurd hl (by decide)
    nextClock := fun h => absurd h (by decide)
    advance := fun _ => ⟨10, firstAfter_of (by decide) (by decide) (by decide), all_of (by decide)⟩
    toggle := fun h => by
      rcases h with ⟨l, hl, h⟩ | ⟨⟨l, hl, h⟩, hr⟩
      · rw [atEdge_top] at h; cases h; exact absurd hl (by decide)
      · exact absurd hr (by decide)
    deferred := fun ⟨l, hl, h⟩ => by rw [atEdge_top] at h; cases h; exact absurd hl (by decide) }

/-- Where the stream, the keys and the clock stand at the polarity check. -/
theorem witness_StreamGrammar :
    atStart.phaseOk .boundary = true ∧ atStart.keyOk 5 ∧ atStart.DataBehind ∧
    atStart.ClockPhase ∧ ∃ t, decoderStep atStart = .next t := by
  refine ⟨by decide, ?_, ?_, ?_, _, rfl⟩
  · unfold State.keyOk; rw [if_pos (by decide), atStart_top]; decide
  · exact fun _ => ⟨by decide, by decide, fun ⟨l, hl, h⟩ => by
      rw [atStart_top] at h; cases h; exact absurd hl (by decide)⟩
  · intro b hb; simp [State.clockIdle, atStart_top] at hb

theorem witness_EmissionSites :
    atStart.Proper ∧ atStart.inRun = true ∧ ∃ t, decoderStep atStart = .next t :=
  ⟨witness_Proper_atStart, by decide, _, rfl⟩

/-- The clock is in phase at `RS.9` where it is idle, and at `RS.3` where it is not. -/
theorem witness_EmissionSites_phase :
    (demoAt [.line .rs9, .line .run3] ⟨5, 0, 0, 5⟩).ClockPhase ∧
    (demoAt [.line .rs3, .line .run3] ⟨10, 0, 0, 10⟩).ClockPhase := by
  constructor <;> intro b hb <;> cases hb <;> decide

theorem witness_DataCursorsBehindClock :
    atStart.Sound ∧ atStart.DataBehind ∧ ∃ t, step atStart = .next t :=
  ⟨atStart_sound, witness_StreamGrammar.2.2.1, _, rfl⟩

/-- Before the word's first edge, where the clock must be idle. -/
theorem witness_ClockAlternates :
    atEdge.Proper ∧ atEdge.clockIdle = some true ∧ atEdge.ClockPhase ∧
    ∃ t, step atEdge = .next t := by
  refine ⟨witness_Proper_atEdge, by decide, fun b hb => ?_, _, rfl⟩
  rw [show atEdge.clockIdle = some true by decide] at hb
  cases hb; decide

theorem witness_RecordKeysNeverDecrease :
    atStart.Inv ∧ atStart.DataBehind ∧ atStart.inRun = true ∧ atStart.keyOk 5 ∧
    ∃ t, decoderStep atStart = .next t :=
  ⟨witness_StepKeepsInvariant.1, witness_StreamGrammar.2.2.1, by decide,
    witness_StreamGrammar.2.1, _, rfl⟩

/-- `GO` from a state between runs with a legal `CFG`; also for the second clause of
`RecordKeysNeverDecrease`. -/
theorem witness_StreamGrammar_go :
    State.reset.inRun = false ∧ cfgLegal State.reset.cfg = true ∧
    ∃ t, exec .go .reset = .next t := ⟨by decide, by decide, _, rfl⟩

/-- After an internal fault, every step keeps the run state; and no capture is being presented. -/
theorem witness_StepAlwaysProceeds :
    atEdge.Proper ∧ ∀ cap hz rest, atEdge.env ≠ .present cap hz :: rest :=
  ⟨witness_Proper_atEdge, fun _ _ _ h => by cases h⟩

/-- A state already in `FAULT` steps to one. -/
theorem witness_NoInternalFault :
    ∃ s t : State, s.Proper ∧ step s = .next t ∧ t.runState = .fault := by
  refine ⟨{ State.reset with runState := .fault }, _, ?_, rfl, rfl⟩
  have none : ∀ l, Point.line l ∉ ({ State.reset with runState := .fault } : State).ctlp :=
    fun l h => by cases h
  have top : ({ State.reset with runState := .fault } : State).top = Option.none := rfl
  exact {
    sound := {
      capture := by decide
      horizon := by intro c; cases c <;> decide
      reserved := by decide
      legal := by decide
      stack := rfl
      depth := Nat.zero_le 4
      full := fun ⟨l, _, h⟩ => by rw [top] at h; cases h
      running := ⟨fun h => absurd h (by decide), fun h => absurd rfl h⟩
      position := fun h => absurd h (by decide)
      markers := by decide
      direction := .inl rfl
      remaining := by intro a; cases a <;> decide
      width := by intro a; cases a <;> decide }
    written := fun l h => by rw [top] at h; cases h
    spanStart := fun h => absurd h (none _)
    enable := fun l h => absurd h (none _)
    noEnable := fun l h => absurd h (none _)
    first := fun l h => absurd h (none _)
    toggle := fun h => absurd h (by decide)
    deferred := fun h => absurd h (by decide)
    fresh := fun _ _ _ => rfl
    toggled := fun h => absurd h (by decide)
    setup := fun h => absurd h (by decide)
    raceCall := fun l m h => by rw [top] at h; cases h
    sampleCall := fun l h => by rw [top] at h; cases h
    lastBit := fun h => by rcases h with h | h | h <;> exact absurd h (none _)
    index := fun l h => absurd h (none _)
    count := fun n h => absurd h (by simp [State.taken, top])
    left := fun n h => absurd h (by simp [State.taken, top])
    emitted := fun h => absurd h (by decide)
    firstReset := fun h => absurd h (by decide) }

/-- A decoder that waits for the clock's first edge. -/
theorem witness_WaitingKeepsState :
    ({ atEdge with hz := ⟨10, 40, 40, 40⟩ } : State).inRun = true ∧
    ({ atEdge with hz := ⟨10, 40, 40, 40⟩ } : State).Sound ∧
    (∃ t, decoderStep { atEdge with hz := ⟨10, 40, 40, 40⟩ } = .next t ∧
      t.runState = .waiting) ∧
    State.reset.inRun = false := by
  refine ⟨by decide, ?_, ⟨_, rfl, by decide⟩, by decide⟩
  exact { atEdge_sound with
    horizon := by intro c; cases c <;> decide
    position := by intro _ c _; cases c <;> decide }

/-- A line that performs no operation in a sound state of a run. -/
theorem witness_SilentLinesJoinNextStep :
    (demoAt [.line .run4] ⟨5, 0, 0, 5⟩).Sound ∧
    (demoAt [.line .run4] ⟨5, 0, 0, 5⟩).inRun = true ∧
    ∃ t, line .run4 (demoAt [.line .run4] ⟨5, 0, 0, 5⟩) = .silent t := by
  refine ⟨?_, by decide, _, rfl⟩
  exact sound_of_demoAt _ _ (by decide) (by decide) (by intro c; cases c <;> decide)

/-- A step of a run that no reset makes; also for `CfgDoesNotReachTheRun`. -/
theorem witness_NothingGoesBack :
    atEdge.Sound ∧ atEdge.inRun = true ∧ (∀ rest, atEdge.env ≠ .rst :: rest) ∧
    (∃ t, step atEdge = .next t) ∧ ∃ t, decoderStep atEdge = .next t :=
  ⟨atEdge_sound, by decide, fun _ h => (by cases h), ⟨_, rfl⟩, ⟨_, rfl⟩⟩

/-- At `GW.1` with a cancellation pending. -/
theorem witness_CancellationOnlyAtWordStart :
    ({ atEdge with ctlp := [.line .gw1, .line .run4], cp := true } : State).Sound ∧
    ∃ t, decoderStep { atEdge with ctlp := [.line .gw1, .line .run4], cp := true } = .next t ∧
      t.runState = .doneCancel := by
  refine ⟨?_, _, rfl, by decide⟩
  exact { sound_of_demoAt [.line .gw1, .line .run4] ⟨5, 0, 0, 5⟩ (by decide) (by decide)
    (by intro c; cases c <;> decide) with }

/-- A sound state of a run without the enable channel. -/
theorem witness_AbsentChannelIsUnread :
    ({ atEdge with cfgl := 0x3002 } : State).Sound ∧
    ({ atEdge with cfgl := 0x3002 } : State).present .en = false ∧
    ∃ t, decoderStep { atEdge with cfgl := 0x3002 } = .next t := by
  refine ⟨?_, by decide, _, rfl⟩
  exact { atEdge_sound with
    reserved := by decide
    legal := by decide
    position := by intro _ c _; cases c <;> decide
    remaining := by intro a; cases a <;> decide
    width := by intro a; cases a <;> decide }

end Sys2Proof.Tests
end

section
/-! What the decoder's step needs of a state to find an operation, and the statements of
00_scope.md: lines without an operation join the next step, every step proceeds, a step runs the
instruction it decodes. -/

namespace Sys2Proof.Machine

open Sys2Proof

/-! ## The nesting of the control stack (10_state.md R30) -/

/-- Where a label gives way to another of the same place, the stack is nested as before. -/
theorem stackOk_replace {l m : Label} (rest : List Point) (hp : placeOf m = placeOf l) :
    stackOk (.line m :: rest) = stackOk (.line l :: rest) := by
  rcases rest with _ | ⟨_ | _, _⟩ <;> simp [stackOk, hp]

/-- Below a label of any procedure but `RUN` stands a nested stack that is not empty. -/
theorem stackOk_pop {l : Label} {rest : List Point} (h : stackOk (.line l :: rest) = true)
    (hp : placeOf l ≠ 1) : rest ≠ [] ∧ stackOk rest = true := by
  rcases rest with _ | ⟨m | c, rest⟩
  · exact absurd (beq_iff_eq.mp h) hp
  · simp only [stackOk, Bool.and_eq_true] at h
    exact ⟨List.cons_ne_nil _ _, h.2⟩
  · simp [stackOk] at h

/-- A nested stack holds no bare word on top. -/
theorem stackOk_word (c : Code) (rest : List Point) : stackOk (.word c :: rest) = false := by
  simp [stackOk]

/-! ## What a decoder step needs to find an operation -/

/-- The part of soundness by which control finds an operation: the stack is nested, it is empty
exactly between runs, and `MDIR` names a marker kind, so that `GW.18` has a listed code. -/
structure State.InControl (s : State) : Prop where
  stack : stackOk s.ctlp = true
  running : s.inRun = true ↔ s.ctlp ≠ []
  direction : s.mdir = 0#2 ∨ s.mdir = 1#2

theorem State.Sound.inControl {s : State} (h : s.Sound) : s.InControl :=
  ⟨h.stack, h.running, h.direction⟩

theorem markerDirection_cases (w : Word) : markerDirection w = 0#2 ∨ markerDirection w = 1#2 := by
  unfold markerDirection
  cases xor (cfgCpol w) (cfgEdge w == .trailing)
  · exact .inl rfl
  · exact .inr rfl

section
variable {s : State} {l m follows : Label} {rest : List Point}

theorem State.InControl.internalFault (h : s.InControl) (code : BitVec 8) :
    (s.internalFault code).InControl :=
  ⟨rfl, by simp [State.inRun], h.direction⟩

theorem State.InControl.goto (h : s.InControl) (hl : s.ctlp = .line l :: rest)
    (hp : placeOf m = placeOf l) : (s.goto m).InControl where
  stack := by
    rw [State.goto_ctlp, hl]
    exact (stackOk_replace rest hp).trans (hl ▸ h.stack)
  running := ⟨fun _ => List.cons_ne_nil _ _, fun _ => h.running.mpr (by simp [hl])⟩
  direction := h.direction

theorem State.InControl.ret (h : s.InControl) (hl : s.ctlp = .line l :: rest)
    (hp : placeOf l ≠ 1) : s.ret.InControl := by
  obtain ⟨hne, hok⟩ := stackOk_pop (hl ▸ h.stack) hp
  have hrest : s.ret.ctlp = rest := by simp [hl]
  exact ⟨hrest ▸ hok, ⟨fun _ => hrest ▸ hne, fun _ => h.running.mpr (by simp [hl])⟩, h.direction⟩

theorem State.InControl.enter (h : s.InControl) (hl : s.ctlp = .line l :: rest)
    (hc : mayReturnTo (placeOf m) l = true) : (s.enter m).InControl := by
  by_cases hroom : s.ctlp.length < 4
  · rw [State.enter_of_lt s m hroom]
    refine ⟨?_, ⟨fun _ => List.cons_ne_nil _ _, fun _ => h.running.mpr (by simp [hl])⟩, h.direction⟩
    have hok : stackOk (.line l :: rest) = true := hl ▸ h.stack
    simp [hl, stackOk, hc, hok]
  · rw [State.enter_of_full s m (by omega)]
    exact h.internalFault _

theorem State.InControl.call (h : s.InControl) (hl : s.ctlp = .line l :: rest)
    (hp : placeOf follows = placeOf l) (hc : mayReturnTo (placeOf m) follows = true) :
    (s.call follows m).InControl :=
  (h.goto hl hp).enter (by rw [State.goto_ctlp, hl, List.tail_cons]) hc

/-- `(s.goto follows).enterRace emit`, the call of `RACE_CHECK` with its operand. -/
theorem State.InControl.callRace {emit : Bool} (h : s.InControl) (hl : s.ctlp = .line l :: rest)
    (hp : placeOf follows = placeOf l) (hc : mayReturnTo 6 follows = true) :
    ((s.goto follows).enterRace emit).InControl := by
  obtain ⟨hstack, hrunning, hdirection⟩ := h.goto hl hp
  have hoperand : ({ s.goto follows with raceEmit := emit } : State).InControl :=
    ⟨hstack, hrunning, hdirection⟩
  exact hoperand.enter (by rw [State.goto_ctlp, hl, List.tail_cons]) hc

theorem State.InControl.toMarkers (h : s.InControl) (hl : s.ctlp = .line l :: rest)
    (hp : placeOf l = 7) : s.toMarkers.InControl :=
  State.InControl.goto ⟨h.stack, h.running, h.direction⟩ hl hp.symm

theorem State.InControl.loopAt (h : s.InControl) (hl : s.ctlp = .line l :: rest)
    (hp : placeOf l = 7) (i : Nat) : (s.loopAt i).InControl := by
  unfold State.loopAt; split
  · exact State.InControl.goto ⟨h.stack, h.running, h.direction⟩ hl hp.symm
  · exact h.toMarkers hl hp

theorem State.InControl.callNextActive (h : s.InControl) (hl : s.ctlp = .line .ae2 :: rest) :
    s.callNextActive.InControl := by
  unfold State.callNextActive; split
  · exact h.call hl rfl rfl
  · exact h.goto hl rfl

theorem State.InControl.noteSample (h : s.InControl) (hl : s.ctlp = .line .sd6 :: rest) :
    s.noteSample.InControl := by
  unfold State.noteSample; split
  · exact withReg_ind (h.internalFault _) fun _ =>
      State.InControl.ret ⟨h.stack, h.running, h.direction⟩ hl (by decide)
  · exact h.internalFault _

/-- Every line without an operation leaves a state from which control finds one, or ends the run. -/
theorem State.InControl.silent {t : State} (h : s.InControl) (hl : s.ctlp = .line l :: rest)
    (ht : line l s = .silent t) : t.InControl := by
  cases l <;> simp only [line, operate] at ht
  case run1 | run2 | run3 | rs1 => cases ht; exact h.call hl rfl rfl
  case run4 => cases ht; exact h.goto hl rfl
  case gw10 => cases ht; exact h.goto hl (by split <;> rfl)
  case gwRet => cases ht; exact h.ret hl (by decide)
  case su1 =>
    cases ht
    exact State.InControl.ret ⟨h.stack, h.running, markerDirection_cases _⟩ hl (by decide)
  case ae1 | gw8 | gw18 | sd2 | sd3 | sd4 | sd5 => split at ht <;> cases ht; exact h.goto hl rfl
  case ae2 => cases ht; exact h.callNextActive hl
  case rc1 =>
    split at ht <;> cases ht
    · exact h.goto hl rfl
    · exact State.InControl.ret ⟨h.stack, h.running, h.direction⟩ hl (by decide)
  case rc10 | gw20 => split at ht <;> cases ht; exact h.ret hl (by decide)
  case gw4 | gw4next => cases ht; exact h.loopAt hl rfl _
  case gw5 | gw11 | gw14 => cases ht; exact h.callRace hl rfl rfl
  case gw6 | gw15 =>
    cases ht; split
    · exact State.InControl.call ⟨h.stack, h.running, h.direction⟩ hl rfl rfl
    · exact h.goto hl rfl
  case gw9 | gw17 =>
    cases ht; split
    · exact h.call hl rfl rfl
    · exact h.goto hl rfl
  case gw12 =>
    cases ht; split
    · exact withReg_ind (h.internalFault _) fun _ =>
        State.InControl.toMarkers ⟨h.stack, h.running, h.direction⟩ hl rfl
    · exact h.goto hl rfl
  case sd6 => cases ht; exact h.noteSample hl
  all_goals cases ht

end

/-! ## Settling -/

theorem settle_inControl {s : State} (h : s.InControl) (n : Nat) : (settle n s).InControl := by
  induction n generalizing s with
  | zero => exact h
  | succ n ih =>
    by_cases hs : s.Settled
    · rwa [settle_of_settled hs]
    · unfold State.Settled at hs; push Not at hs
      obtain ⟨l, rest, t, hl, ht⟩ := hs
      rw [settle_silent hl ht]
      exact ih (h.silent hl ht)

theorem settled_of_top_none {s : State} (h : s.top = none) : s.Settled := by
  intro l rest t hl
  simp [State.top, hl] at h

theorem settled_of_operation {s : State} {l : Label} {stack : List Point} {c : Code}
    {after : State → Out} (hl : s.ctlp = .line l :: stack) (hc : line l s = .operation c after) :
    s.Settled := by
  intro m rest t hm ht
  rw [hl] at hm; cases hm
  rw [hc] at ht; cases ht

/-! ## The step at the control point -/

theorem execCode_of_decode {c : Code} {i : Instr} (h : decode c = some i) (s : State) :
    execCode c s = exec i s := by
  simp only [execCode, h]

theorem pointStep_operation {s : State} {l : Label} {stack : List Point} {c : Code}
    {after : State → Out} (hl : s.ctlp = .line l :: stack) (hc : line l s = .operation c after) :
    pointStep s = proceed (execCode c s) after := by
  simp only [pointStep, hl, hc]

theorem pointStep_word {s : State} {c : Code} {stack : List Point}
    (hl : s.ctlp = .word c :: stack) : pointStep s = wordStep c stack s := by
  simp only [pointStep, hl]

theorem pointStep_betweenRuns {s : State} (hl : s.ctlp = []) (hr : s.inRun = false) :
    pointStep s = .next s := by
  simp [pointStep, hl, hr]

theorem decoderStep_of_settled {s : State} (hr : s.inRun = true) (hs : s.Settled) :
    decoderStep s = pointStep s := by
  rw [decoderStep, if_pos hr, settle_of_settled hs]

/-- Between runs too: there the control point is empty and its step keeps the state. -/
theorem State.InControl.decoderStep_eq {s : State} (h : s.InControl) :
    decoderStep s = pointStep (settle settleFuel s) := by
  cases hr : s.inRun with
  | true => exact if_pos hr
  | false =>
    have hl : s.ctlp = [] := by
      by_contra hne
      exact absurd (h.running.mpr hne) (by simp [hr])
    rw [settle_of_settled (settled_of_top_none (by simp [State.top, hl])),
      pointStep_betweenRuns hl hr, decoderStep, hr, if_neg Bool.false_ne_true]

/-- Where control has come to an operation, or between runs, the step answers a next state. -/
theorem State.InControl.pointStep_next {s : State} (h : s.InControl) (hs : s.Settled) :
    ∃ t, pointStep s = .next t := by
  match hl : s.ctlp with
  | [] =>
    have hr : s.inRun = false := by
      by_contra hr
      exact h.running.mp (by simpa using hr) hl
    exact ⟨s, pointStep_betweenRuns hl hr⟩
  | .word c :: stack =>
    have hok := h.stack
    rw [hl, stackOk_word] at hok
    exact absurd hok Bool.false_ne_true
  | .line l :: stack =>
    cases hc : line l s with
    | silent t => exact absurd hc (hs l stack t hl)
    | operation c after =>
      obtain ⟨i, hi⟩ := line_operation_decodes h.direction hc
      obtain ⟨u, hu, -⟩ := exec_next i s
      obtain ⟨v, hv, -⟩ := proceed_next (t := u) (line_rest_frame hc)
      exact ⟨v, by rw [pointStep_operation hl hc, execCode_of_decode hi, hu, hv]⟩

/-- A decoder step answers a next state where the stack holds at most four labels. -/
theorem State.InControl.decoderStep_next {s : State} (h : s.InControl)
    (hd : s.ctlp.length ≤ 4) : ∃ t, decoderStep s = .next t := by
  rw [h.decoderStep_eq]
  exact (settle_inControl h settleFuel).pointStep_next (settle_settled _ _ (silentBoundOf_fuel hd))

/-! ## The step of the schedule's next entry -/

theorem step_of_env_nil {s : State} (h : s.env = []) : step s = decoderStep s := by
  simp only [step, stepState, h]

theorem step_of_env_cons {s : State} {e : Input} {rest : List Input} (h : s.env = e :: rest) :
    step s = inputStep e { s with env := rest } := by
  simp only [step, stepState, h]

theorem hostInput_word {a : HostAccess} {i : Instr} (hw : a.size = .word)
    (hi : decode a.code = some i) (s : State) : hostInput a s = exec i s := by
  simp only [hostInput, hw, hi]

theorem hostInput_next (a : HostAccess) (s : State) : ∃ t, hostInput a s = .next t := by
  unfold hostInput; split
  · next i _ _ =>
    obtain ⟨t, ht, -⟩ := exec_next i s
    exact ⟨t, ht⟩
  · exact ⟨_, rfl⟩

theorem busInput_next (addr : Nat) (write : Bool) (size : AccessSize) (data : Word) (s : State) :
    ∃ t, busInput addr write size data s = .next t := by
  unfold busInput; split
  · exact hostInput_next _ s
  · exact ⟨s, rfl⟩

theorem presentInput_next {cap : Capture} {s : State} (hz : PerChannel Nat)
    (hr : s.inRun = false) (hwf : cap.wf = true) : ∃ t, presentInput cap hz s = .next t := by
  rw [presentInput, hr, if_neg Bool.false_ne_true, if_pos hwf]
  exact ⟨_, rfl⟩

/-! ## The statements -/

/-- Settles O43: the silent line leaves a state that still finds its operation, and nearer to it, so
that one line less of fuel is enough and the fuel of a whole step makes no difference. -/
theorem silentLinesJoinNextStep : Obligations.SilentLinesJoinNextStep := by
  unfold Obligations.SilentLinesJoinNextStep
  intro s t l stack hsound _ hl ht
  have hbound : silentBoundOf t.ctlp ≤ 39 := by
    have hnearer := line_silent_bound hl ht
    have hfuel := silentBoundOf_fuel hsound.depth
    unfold settleFuel at hfuel
    omega
  have hsettle : settle settleFuel s = settle settleFuel t :=
    (settle_silent hl ht 39).trans (settle_fuel 39 t hbound settleFuel (by decide)).symm
  rw [hsound.inControl.decoderStep_eq, (hsound.inControl.silent hl ht).decoderStep_eq, hsettle]

/-- Settles O50, by the schedule's next entry. -/
theorem stepAlwaysProceeds : Obligations.StepAlwaysProceeds := by
  unfold Obligations.StepAlwaysProceeds
  intro s hproper hpresent
  have hsound := hproper.sound
  cases henv : s.env with
  | nil =>
    rw [step_of_env_nil henv]
    exact hsound.inControl.decoderStep_next hsound.depth
  | cons e rest =>
    rw [step_of_env_cons henv]
    cases e with
    | decoder =>
      exact State.InControl.decoderStep_next (s := { s with env := rest })
        ⟨hsound.stack, hsound.running, hsound.direction⟩ hsound.depth
    | host a => exact hostInput_next a _
    | bus addr write size data => exact busInput_next addr write size data _
    | grow c n => exact ⟨_, rfl⟩
    | present cap hz =>
      obtain ⟨hr, hwf⟩ := hpresent cap hz rest henv
      exact presentInput_next (s := { s with env := rest }) hz hr hwf
    | rst => exact ⟨_, rfl⟩

/-- Settles O42: at a line's operation and at a bare word control has settled, so the decoder's step
is the step at the control point. -/
theorem stepRunsDecoded : Obligations.StepRunsDecoded := by
  unfold Obligations.StepRunsDecoded
  intro s i
  refine ⟨step_of_env_nil, fun _ henv => step_of_env_cons henv, ?host, ?operation, ?word⟩
  case host =>
    intro a rest henv hw hi
    exact (step_of_env_cons henv).trans (hostInput_word hw hi _)
  case operation =>
    intro l stack c after hr hl hc hi
    rw [decoderStep_of_settled hr (settled_of_operation hl hc), pointStep_operation hl hc,
      execCode_of_decode hi]
  case word =>
    intro c stack hr hl hi
    have hstep : decoderStep s = wordStep c stack s :=
      (decoderStep_of_settled hr (settled_of_top_none (by simp [State.top, hl]))).trans
        (pointStep_word hl)
    rw [hstep, wordStep, execCode_of_decode hi] <;> rfl

end Sys2Proof.Machine
end

section
/-! The invariant as claims made at labels: one name for each field of `Proper` and `Guarded`, the
labels it is claimed at, and that the claims and the invariant say the same. -/

namespace Sys2Proof.Machine

open Sys2Proof

/-! ## The invariant as claims at labels -/

/-- How many bits of the word in progress have been sampled. -/
inductive Progress where
  /-- none -/
  | zero
  /-- those before bit `I` -/
  | bit
  /-- those before bit `I`, which has gone into the accumulator of `DOUT` -/
  | bitDout
  /-- those before bit `I`, which has gone into both accumulators -/
  | bitBoth
  /-- those before bit `I`, and bit `I` too where it is sampled at the leading edge -/
  | edge
  /-- those up to bit `I` -/
  | next
  /-- all -/
  | all
  deriving DecidableEq

/-- The progress of the word at the labels where `Proper` counts bits by the label on top: those of
`GET_WORD`'s loop and of `SAMPLE_DATA`. -/
def progressAt : Label → Option Progress
  | .gw4 => some .zero
  | .gw5 | .gw6 | .gw7 | .gw8 | .gw9 | .sd1 | .sd2 | .sd3 => some .bit
  | .sd4 | .sd5 => some .bitDout
  | .sd6 => some .bitBoth
  | .gw10 | .gw11 | .gw12 | .gw13 | .gw14 | .gw15 | .gw16 | .gw17 => some .edge
  | .gw4next => some .next
  | .gw18 | .gw19 => some .all
  | _ => none

/-- The markers in `MB` at that progress. -/
def State.noted (s : State) : Progress → Nat
  | .zero => 0
  | .bit | .bitDout | .bitBoth => s.i.toNat
  | .edge => s.i.toNat + if s.edge = .leading then 1 else 0
  | .next => s.i.toNat + 1
  | .all => s.N

/-- The bits added to accumulator `a` at that progress. -/
def State.added (s : State) (a : AccSel) : Progress → Nat
  | .bitDout => s.i.toNat + if a = .dout then 1 else 0
  | .bitBoth => s.i.toNat + 1
  | p => s.noted p

/-- `MB` and the accumulators of the present channels hold what `p` says. -/
def State.Counted (s : State) (p : Progress) : Prop :=
  s.mb.length = s.noted p ∧
    ∀ a, s.present (accChannel a) = true → (s.acc a).r.toNat + s.added a p = s.N

/-- The label on top of a control stack. -/
def topLabel : List Point → Option Label
  | .line l :: _ => some l
  | _ => none

/-- The parts of the state that the invariant reads and a decoder step may write. -/
inductive Field where
  | reg (r : SampleReg) | nr | rt | i | k | mdir | raceEmit | pos (c : Channel) | acc (a : AccSel)
  | mb | callers
  deriving DecidableEq

/-- What `Proper` and `Guarded` claim, one name for each claim. -/
inductive Claim where
  -- at every label, and between runs
  | markers | direction | remaining | width | toggle | deferred
  -- at every label
  | setup | position | clear
  -- of a label anywhere on the stack
  | spanStart | enable | noEnable | first | firstLater | fresh | lastBit | index
  -- of the label on top
  | written (r : SampleReg)
  | toggled | raceCall | sampleCall | counted (p : Progress) | countedCaller | emitted | firstReset
  | full
  -- of the label on top, with the enable channel
  | active | inactive | behind | target | aligned | nextClock | advance | advanceUnless
  | toggleEdge | toggleEdgeIf | deferredEdge
  deriving DecidableEq

/-- The labels at which a claim is made. -/
def Claim.at (c : Claim) (l : Label) : Bool :=
  match c with
  | .markers | .direction | .remaining | .width | .toggle | .deferred | .position | .clear => true
  | .setup => l != .run1 && l != .su1
  | .spanStart => l == .rs4
  | .enable => needsEnable l
  | .noEnable => l == .rs7 || l == .rs8
  | .first => needsFirst 0#7 l
  | .firstLater => needsFirst 1#7 l && !needsFirst 0#7 l
  | .fresh => l == .gw4 || inLoop l
  | .lastBit => l == .gw11 || l == .gw12 || l == .gw13
  | .index => inLoop l
  | .written r => (needsReg l).contains r
  | .toggled => l == .rc10
  | .raceCall => labelProc l == 6
  | .sampleCall => labelProc l == 8
  | .counted p => progressAt l == some p
  | .countedCaller => labelProc l == 6
  | .emitted => l == .gw18
  | .firstReset => l == .gw3
  | .full => [Label.ae2n1, .ae2n2, .ae2n3].contains l
  | .active => activeAt l
  | .inactive => [Label.na3, .ae2n3].contains l
  | .behind => [Label.ae3, .ae4, .rs4, .rs5, .rs6].contains l
  | .target => [Label.ae4, .rs2, .rs3, .rs5, .rs6, .rs9].contains l
  | .aligned => [Label.rs2, .rs3, .rs9].contains l
  | .nextClock => l == .rc8
  | .advance => [Label.gw7, .gw13, .gw16].contains l
  | .advanceUnless | .toggleEdgeIf => [Label.gw6, .gw12, .gw15].contains l
  | .toggleEdge => [Label.rc6, .rc10].contains l
  | .deferredEdge => [Label.gw18, .gw19, .gw20].contains l

/-- What a claim says. -/
def State.Meets (s : State) : Claim → Prop
  | .markers => s.mb.length ≤ 64
  | .direction => s.mdir = 0#2 ∨ s.mdir = 1#2
  | .remaining => ∀ a, (s.acc a).r.toNat ≤ s.N
  | .width => ∀ a, (s.acc a).v.toNat < 2 ^ s.N
  | .toggle => s.rt = true → s.rs.written = true ∧ s.present .en = true
  | .deferred => s.nr = true → s.ds.written = true ∧ s.present .en = true
  | .setup => s.mdir = markerDirection s.cfgl
  | .position => ∀ c, s.present c = true → (s.pos.get c).toNat < s.hz.get c
  | .clear => s.present .en = true → ∀ t ∈ s.cap.wave.en.edges, ¬ (s.pos.en < t ∧ t ≤ s.pos.clk)
  | .spanStart => s.es.written = true
  | .enable => s.present .en = true
  | .noEnable => s.present .en = false
  | .first => s.fs.written = true
  | .firstLater => s.i ≠ 0#7 → s.fs.written = true
  | .fresh => s.nr = false
  | .lastBit => s.i.toNat + 1 = s.N ∧ s.edge = .leading
  | .index => s.i.toNat < s.N
  | .written r => (s.reg r).written = true
  | .toggled => s.rt = true
  | .raceCall => ∀ m, topLabel s.ctlp.tail = some m → s.raceEmit = !(m == .gw12)
  | .sampleCall =>
      (topLabel s.ctlp.tail = some .gw10 → s.edge = .leading) ∧
      (topLabel s.ctlp.tail = some .gw4next → s.edge = .trailing)
  | .counted p => s.Counted p
  | .countedCaller =>
      ∀ m, topLabel s.ctlp.tail = some m → labelProc m = 7 →
        ∀ p, progressAt m = some p → s.Counted p
  | .emitted => s.k.toNat ≤ s.N
  | .firstReset => s.accDout.r = cfgN s.cfgl
  | .full => s.ctlp.tail.length = 3
  | .active => s.present .en = true → s.levelOf .en = s.enpol
  | .inactive => s.present .en = true → s.levelOf .en ≠ s.enpol
  | .behind => s.present .en = true → s.pos.clk < s.pos.en
  | .target => s.present .en = true → s.cs = .holding s.pos.en
  | .aligned => s.present .en = true → s.pos.clk = s.pos.en
  | .nextClock => s.present .en = true → s.FirstAfter .clk s.rn.val
  | .advance => s.present .en = true → s.ClockMayAdvance
  | .advanceUnless => s.present .en = true → s.rt = false → s.ClockMayAdvance
  | .toggleEdge => s.present .en = true → s.FirstAfter .en s.rs.val
  | .toggleEdgeIf => s.present .en = true → s.rt = true → s.FirstAfter .en s.rs.val
  | .deferredEdge => s.present .en = true → s.nr = true → s.FirstAfter .en s.ds.val

/-- The fields a claim reads, beside the configuration and the environment's data. -/
def Claim.reads : Claim → List Field
  | .markers => [.mb]
  | .direction | .setup => [.mdir]
  | .remaining | .width => [.acc .dout, .acc .din]
  | .toggle => [.rt, .reg .rs]
  | .deferred => [.nr, .reg .ds]
  | .position => [.pos .clk, .pos .dout, .pos .din, .pos .en]
  | .clear | .behind | .aligned | .advance => [.pos .clk, .pos .en]
  | .spanStart => [.reg .es]
  | .enable | .noEnable => []
  | .first => [.reg .fs]
  | .firstLater => [.reg .fs, .i]
  | .fresh => [.nr]
  | .lastBit | .index => [.i]
  | .written r => [.reg r]
  | .toggled => [.rt]
  | .raceCall => [.raceEmit, .callers]
  | .sampleCall | .full => [.callers]
  | .counted _ => [.mb, .i, .acc .dout, .acc .din]
  | .countedCaller => [.mb, .i, .acc .dout, .acc .din, .callers]
  | .emitted => [.k]
  | .firstReset => [.acc .dout]
  | .active | .inactive => [.pos .en]
  | .target => [.reg .cs, .pos .en]
  | .nextClock => [.reg .rn, .pos .clk]
  | .advanceUnless => [.rt, .pos .clk, .pos .en]
  | .toggleEdge => [.reg .rs, .pos .en]
  | .toggleEdgeIf => [.rt, .reg .rs, .pos .en]
  | .deferredEdge => [.nr, .reg .ds, .pos .en]

/-- The claims made between runs too. -/
def Claim.always : Claim → Bool
  | .markers | .direction | .remaining | .width | .toggle | .deferred => true
  | _ => false

/-- The claims made of a label wherever it stands on the stack. -/
def Claim.standing : Claim → Bool
  | .spanStart | .enable | .noEnable | .first | .firstLater | .fresh | .lastBit | .index => true
  | _ => false

/-- Every claim. -/
def Claim.all : List Claim :=
  [.markers, .direction, .remaining, .width, .toggle, .deferred, .setup, .position, .clear,
   .spanStart, .enable, .noEnable, .first, .firstLater, .fresh, .lastBit, .index, .written .cs,
   .written .fs, .written .ds, .written .es, .written .rs, .written .rn, .toggled, .raceCall,
   .sampleCall, .counted .zero, .counted .bit, .counted .bitDout, .counted .bitBoth,
   .counted .edge, .counted .next, .counted .all, .countedCaller, .emitted, .firstReset, .full,
   .active, .inactive, .behind, .target, .aligned, .nextClock, .advance, .advanceUnless,
   .toggleEdge, .toggleEdgeIf, .deferredEdge]

theorem Claim.mem_all (c : Claim) : c ∈ Claim.all := by
  cases c with
  | written r => cases r <;> decide
  | counted p => cases p <;> decide
  | _ => decide

/-! ## The claims and the invariant say the same -/

/-- What `Sound` asks of the environment's data and the configuration. -/
structure State.SoundInputs (s : State) : Prop where
  capture : s.cap.wf = true
  horizon : ∀ c, 1 ≤ s.hz.get c ∧ s.hz.get c ≤ s.cap.len
  reserved : s.cfg &&& cfgDefined = s.cfg ∧ s.cfgl &&& cfgDefined = s.cfgl
  legal : cfgLegal s.cfgl = true

theorem State.Sound.inputs {s : State} (h : s.Sound) : s.SoundInputs :=
  ⟨h.capture, h.horizon, h.reserved, h.legal⟩

/-- The claims of the labels of a stack that are made wherever they stand. -/
def State.MeetsBelow (s : State) (stack : List Point) : Prop :=
  ∀ l, .line l ∈ stack → ∀ c : Claim, c.standing = true → c.at l = true → s.Meets c

theorem State.top_eq (s : State) : s.top = topLabel s.ctlp := by
  unfold State.top topLabel; split <;> simp_all

theorem State.under_eq (s : State) : s.under = topLabel s.ctlp.tail := by
  rcases h : s.ctlp with _ | ⟨p, _ | ⟨_ | _, rest⟩⟩ <;> simp [State.under, topLabel, h]

theorem needsFirst_iff (i : BitVec 7) (l : Label) :
    needsFirst i l = true ↔
      needsFirst 0#7 l = true ∨
        (i ≠ 0#7 ∧ (needsFirst 1#7 l && !needsFirst 0#7 l) = true) := by
  cases l <;> simp [needsFirst]

theorem State.takenAt_word (s : State) {l : Label} (h : labelProc l = 7) :
    s.takenAt l = (progressAt l).map s.noted := by
  revert h; cases l <;> simp [labelProc, State.takenAt, progressAt, State.noted]

theorem progressAt_race {l : Label} : labelProc l = 6 → progressAt l = none := by
  cases l <;> decide

theorem labelProc_of_takenAt {s : State} {l : Label} {n : Nat} (h : s.takenAt l = some n) :
    labelProc l = 7 := by
  revert h; cases l <;> simp [labelProc, State.takenAt]

theorem State.taken_of_top {s : State} {l : Label} (h : s.top = some l) :
    s.taken = if labelProc l = 6 then s.under.bind s.takenAt else (progressAt l).map s.noted := by
  cases l <;> simp [State.taken, h, labelProc, progressAt, State.takenAt, State.noted]

/-- Some claims are made of every state, between runs too. -/
theorem State.Proper.meets_always {s : State} (h : s.Proper) {c : Claim} (hc : c.always = true) :
    s.Meets c := by
  cases c
  case markers => exact h.sound.markers
  case direction => exact h.sound.direction
  case remaining => exact h.sound.remaining
  case width => exact h.sound.width
  case toggle => exact h.toggle
  case deferred => exact h.deferred
  all_goals cases hc

theorem State.Proper.meets_standing {s : State} (h : s.Proper) {l : Label}
    (hl : .line l ∈ s.ctlp) {c : Claim} (hc : c.standing = true) (hat : c.at l = true) :
    s.Meets c := by
  cases c <;> simp only [Claim.at, Bool.or_eq_true, beq_iff_eq] at hat
  case spanStart => exact h.spanStart (hat ▸ hl)
  case enable => exact h.enable l hl hat
  case noEnable => exact h.noEnable l hl hat
  case first => exact h.first l hl ((needsFirst_iff _ _).mpr (.inl hat))
  case firstLater =>
    exact fun hi => h.first l hl ((needsFirst_iff _ _).mpr (.inr ⟨hi, by simpa using hat⟩))
  case fresh => exact h.fresh l hl hat
  case lastBit =>
    rcases hat with (rfl | rfl) | rfl
    · exact h.lastBit (.inl hl)
    · exact h.lastBit (.inr (.inl hl))
    · exact h.lastBit (.inr (.inr hl))
  case index => exact h.index l hl hat
  all_goals cases hc

theorem mem_isAt {s : State} {l : Label} {ls : List Label} (hl : s.top = some l)
    (h : ls.contains l = true) : s.isAt ls :=
  ⟨l, List.contains_iff_mem.mp h, hl⟩

theorem State.midSample_of_top {s : State} {l : Label} {p : Progress} (hl : s.top = some l)
    (hp : progressAt l = some p) (a : AccSel) :
    s.noted p + (if s.midSample a then 1 else 0) = s.added a p := by
  cases l <;> cases hp <;> cases a <;> simp [State.midSample, hl, State.added, State.noted]

theorem State.midSample_race {s : State} {l : Label} (hl : s.top = some l) (h6 : labelProc l = 6)
    (a : AccSel) : s.midSample a = false := by
  revert h6; cases l <;> cases a <;> simp [State.midSample, hl, labelProc]

theorem State.added_word {l : Label} {p : Progress} (h7 : labelProc l = 7)
    (hp : progressAt l = some p) (s : State) (a : AccSel) : s.added a p = s.noted p := by
  revert h7 hp; cases l <;> simp [labelProc, progressAt] <;> rintro rfl <;> rfl

theorem State.Proper.counted {s : State} (h : s.Proper) {l : Label} {p : Progress}
    (hl : s.top = some l) (hp : progressAt l = some p) : s.Counted p := by
  have htaken : s.taken = some (s.noted p) := by
    rw [State.taken_of_top hl, if_neg fun h6 => by simp [progressAt_race h6] at hp, hp]
    rfl
  refine ⟨h.count _ htaken, fun a ha => ?_⟩
  have hleft := h.left _ htaken a ha
  rwa [Nat.add_assoc, State.midSample_of_top hl hp] at hleft

theorem State.Proper.countedCaller {s : State} (h : s.Proper) {l m : Label} {p : Progress}
    (hl : s.top = some l) (h6 : labelProc l = 6) (hm : s.under = some m) (h7 : labelProc m = 7)
    (hp : progressAt m = some p) : s.Counted p := by
  have htaken : s.taken = some (s.noted p) := by
    rw [State.taken_of_top hl, if_pos h6, hm, Option.bind_some, State.takenAt_word s h7, hp]
    rfl
  refine ⟨h.count _ htaken, fun a ha => ?_⟩
  have hleft := h.left _ htaken a ha
  rwa [State.midSample_race hl h6, State.added_word h7 hp] at *

theorem State.Inv.sound {s : State} (h : s.Inv) : s.Sound := h.1.sound

/-- During a run the invariant makes every claim of the label control is at. -/
theorem State.Inv.meets {s : State} (h : s.Inv) (hr : s.inRun = true) {l : Label}
    {stack : List Point} (hl : s.ctlp = .line l :: stack) {c : Claim} (hc : c.at l = true) :
    s.Meets c := by
  obtain ⟨hp, hg⟩ := h
  have htop : s.top = some l := by simp [State.top_eq, hl, topLabel]
  have isAt := fun {ls : List Label} => mem_isAt (ls := ls) htop
  cases c <;> simp only [Claim.at, bne_iff_ne, beq_iff_eq, Bool.and_eq_true] at hc
  case markers | direction | remaining | width | toggle | deferred => exact hp.meets_always rfl
  case spanStart | enable | noEnable | first | firstLater | fresh | lastBit | index =>
    exact hp.meets_standing (hl ▸ List.mem_cons_self) rfl
      (by simpa [Claim.at] using hc)
  case setup => exact hp.setup hr (by simp [htop, hc]) (by simp [htop, hc])
  case position => exact hp.sound.position hr
  case written r => exact hp.written l htop r (List.contains_iff_mem.mp hc)
  case toggled => exact hp.toggled (hc ▸ htop)
  case raceCall => exact fun m hm => hp.raceCall l m htop (s.under_eq ▸ hm) hc
  case sampleCall =>
    have hs := hp.sampleCall l htop hc
    rwa [s.under_eq] at hs
  case counted p => exact hp.counted htop hc
  case countedCaller =>
    exact fun m hm h7 p hpm => hp.countedCaller htop hc (s.under_eq ▸ hm) h7 hpm
  case emitted => exact hp.emitted (hc ▸ htop)
  case firstReset => exact hp.firstReset (hc ▸ htop)
  case full =>
    have hfull := hp.sound.full (isAt hc)
    simpa [State.Meets, hl] using hfull
  case clear => exact fun he => (hg hr he).clear
  case active => exact fun he => (hg hr he).active l htop hc
  case inactive => exact fun he => (hg hr he).inactive (isAt hc)
  case behind => exact fun he => (hg hr he).behind (isAt hc)
  case target => exact fun he => (hg hr he).target (isAt hc)
  case aligned => exact fun he => (hg hr he).aligned (isAt hc)
  case nextClock => exact fun he => (hg hr he).nextClock (hc ▸ htop)
  case advance => exact fun he => (hg hr he).advance (.inl (isAt hc))
  case advanceUnless => exact fun he ht => (hg hr he).advance (.inr ⟨isAt hc, ht⟩)
  case toggleEdge => exact fun he => (hg hr he).toggle (.inl (isAt hc))
  case toggleEdgeIf => exact fun he ht => (hg hr he).toggle (.inr ⟨isAt hc, ht⟩)
  case deferredEdge => exact fun he hn => (hg hr he).deferred (isAt hc) hn

theorem State.Inv.meetsBelow {s : State} (h : s.Inv) {l : Label} {stack : List Point}
    (hl : s.ctlp = .line l :: stack) : s.MeetsBelow stack :=
  fun _ hm _ hc hat => h.1.meets_standing (hl ▸ List.mem_cons_of_mem _ hm) hc hat

/-- Between runs the invariant is the claims made there. -/
theorem inv_of_betweenRuns {s : State} (hin : s.SoundInputs) (hr : s.inRun = false)
    (hl : s.ctlp = []) (hm : ∀ c : Claim, c.always = true → s.Meets c) : s.Inv := by
  have htop : s.top = none := by simp [State.top, hl]
  have hat (ls : List Label) : ¬ s.isAt ls := by rintro ⟨l, -, h⟩; simp [htop] at h
  have htaken : s.taken = none := by simp [State.taken, htop]
  refine ⟨?_, fun h => by simp [hr] at h⟩
  exact {
    sound := {
      capture := hin.capture
      horizon := hin.horizon
      reserved := hin.reserved
      legal := hin.legal
      stack := by rw [hl]; rfl
      depth := by simp [hl]
      full := fun h => absurd h (hat _)
      running := by simp [hr, hl]
      position := fun h => by simp [hr] at h
      markers := hm .markers rfl
      direction := hm .direction rfl
      remaining := hm .remaining rfl
      width := hm .width rfl }
    written := by simp [htop]
    spanStart := by simp [hl]
    enable := by simp [hl]
    noEnable := by simp [hl]
    first := by simp [hl]
    toggle := hm .toggle rfl
    deferred := hm .deferred rfl
    fresh := by simp [hl]
    toggled := by simp [htop]
    setup := fun h => by simp [hr] at h
    raceCall := by simp [htop]
    sampleCall := by simp [htop]
    lastBit := by simp [hl]
    index := by simp [hl]
    count := by simp [htaken]
    left := by simp [htaken]
    emitted := by simp [htop]
    firstReset := by simp [htop] }

section
variable {s : State} {l : Label} {stack : List Point}

theorem State.top_of_ctlp (hl : s.ctlp = .line l :: stack) : s.top = some l := by
  rw [State.top_eq, hl, topLabel]

theorem State.eq_of_top (hl : s.ctlp = .line l :: stack) {k : Label} (hk : s.top = some k) :
    k = l :=
  Option.some.inj (hk.symm.trans (State.top_of_ctlp hl))

theorem contains_of_isAt (hl : s.ctlp = .line l :: stack) {ls : List Label} (h : s.isAt ls) :
    ls.contains l = true := by
  obtain ⟨k, hmem, hk⟩ := h
  exact List.contains_iff_mem.mpr (State.eq_of_top hl hk ▸ hmem)

/-- What `Proper` says of the bits taken, from the claims of the label on top. -/
theorem taken_of_meets (hl : s.ctlp = .line l :: stack)
    (hm : ∀ c : Claim, c.at l = true → s.Meets c) {n : Nat} (hn : s.taken = some n) :
    s.mb.length = n ∧ ∀ a, s.present (accChannel a) = true →
      (s.acc a).r.toNat + n + (if s.midSample a then 1 else 0) = s.N := by
  have htop := State.top_of_ctlp hl
  rw [State.taken_of_top htop] at hn
  split at hn
  case isTrue h6 =>
    obtain ⟨m, hmu, hn⟩ := Option.bind_eq_some_iff.mp hn
    have h7 := labelProc_of_takenAt hn
    rw [State.takenAt_word s h7] at hn
    obtain ⟨p, hp, rfl⟩ := Option.map_eq_some_iff.mp hn
    obtain ⟨hcount, hleft⟩ := hm .countedCaller (beq_iff_eq.mpr h6) m (s.under_eq ▸ hmu) h7 p hp
    refine ⟨hcount, fun a ha => ?_⟩
    rw [State.midSample_race htop h6, ← State.added_word h7 hp s a]
    exact hleft a ha
  case isFalse =>
    obtain ⟨p, hp, rfl⟩ := Option.map_eq_some_iff.mp hn
    obtain ⟨hcount, hleft⟩ := hm (.counted p) (beq_iff_eq.mpr hp)
    refine ⟨hcount, fun a ha => ?_⟩
    rw [Nat.add_assoc, State.midSample_of_top htop hp]
    exact hleft a ha

theorem sound_of_meets (hin : s.SoundInputs) (hr : s.inRun = true)
    (hl : s.ctlp = .line l :: stack) (hok : stackOk s.ctlp = true) (hd : s.ctlp.length ≤ 4)
    (hm : ∀ c : Claim, c.at l = true → s.Meets c) : s.Sound where
  capture := hin.capture
  horizon := hin.horizon
  reserved := hin.reserved
  legal := hin.legal
  stack := hok
  depth := hd
  full := fun h => by
    have hfull := hm .full (contains_of_isAt hl h)
    simpa [State.Meets, hl] using hfull
  running := by simp [hr, hl]
  position := fun _ => hm .position rfl
  markers := hm .markers rfl
  direction := hm .direction rfl
  remaining := hm .remaining rfl
  width := hm .width rfl

theorem proper_of_meets (hsound : s.Sound) (hl : s.ctlp = .line l :: stack)
    (hm : ∀ c : Claim, c.at l = true → s.Meets c) (hbelow : s.MeetsBelow stack) : s.Proper :=
  have top {k : Label} (hk : s.top = some k) : k = l := State.eq_of_top hl hk
  have stand (k : Label) (hk : .line k ∈ s.ctlp) (c : Claim) (hc : c.standing = true)
      (hck : c.at k = true) : s.Meets c := by
    rcases List.mem_cons.mp (hl ▸ hk) with hk | hk
    · cases hk; exact hm c hck
    · exact hbelow k hk c hc hck
  { sound := hsound
    written := fun k hk r hr => hm (.written r) (List.contains_iff_mem.mpr (top hk ▸ hr))
    spanStart := fun h => stand _ h .spanStart rfl rfl
    enable := fun k hk h => stand k hk .enable rfl h
    noEnable := fun k hk h => stand k hk .noEnable rfl (by simpa [Claim.at] using h)
    first := fun k hk h => by
      rcases (needsFirst_iff _ _).mp h with h | ⟨hi, h⟩
      · exact stand k hk .first rfl h
      · exact stand k hk .firstLater rfl h hi
    toggle := hm .toggle rfl
    deferred := hm .deferred rfl
    fresh := fun k hk h => stand k hk .fresh rfl (by simpa [Claim.at] using h)
    toggled := fun h => hm .toggled (top h ▸ rfl)
    setup := fun _ h₁ h₂ => hm .setup (by
      simpa [Claim.at, State.top_of_ctlp hl] using And.intro h₁ h₂)
    raceCall := fun k m hk hmu h6 =>
      hm .raceCall (beq_iff_eq.mpr (top hk ▸ h6)) m (s.under_eq ▸ hmu)
    sampleCall := fun k hk h8 => s.under_eq ▸ hm .sampleCall (beq_iff_eq.mpr (top hk ▸ h8))
    lastBit := fun h => by
      rcases h with h | h | h <;> exact stand _ h .lastBit rfl rfl
    index := fun k hk h => stand k hk .index rfl h
    count := fun n hn => (taken_of_meets hl hm hn).1
    left := fun n hn => (taken_of_meets hl hm hn).2
    emitted := fun h => hm .emitted (top h ▸ rfl)
    firstReset := fun h => hm .firstReset (top h ▸ rfl) }

theorem guarded_of_meets (hl : s.ctlp = .line l :: stack)
    (hm : ∀ c : Claim, c.at l = true → s.Meets c) (he : s.present .en = true) : s.Guarded :=
  have here {ls : List Label} (h : s.isAt ls) : ls.contains l = true := contains_of_isAt hl h
  { clear := hm .clear rfl he
    active := fun k hk h => hm .active (State.eq_of_top hl hk ▸ h) he
    inactive := fun h => hm .inactive (here h) he
    behind := fun h => hm .behind (here h) he
    target := fun h => hm .target (here h) he
    aligned := fun h => hm .aligned (here h) he
    nextClock := fun h => hm .nextClock (State.eq_of_top hl h ▸ rfl) he
    advance := fun h => by
      rcases h with h | ⟨h, ht⟩
      · exact hm .advance (here h) he
      · exact hm .advanceUnless (here h) he ht
    toggle := fun h => by
      rcases h with h | ⟨h, ht⟩
      · exact hm .toggleEdge (here h) he
      · exact hm .toggleEdgeIf (here h) he ht
    deferred := fun h hn => hm .deferredEdge (here h) he hn }

/-- During a run the invariant is a nested stack and the claims of its labels. -/
theorem inv_of_meets (hin : s.SoundInputs) (hr : s.inRun = true) (hl : s.ctlp = .line l :: stack)
    (hok : stackOk s.ctlp = true) (hd : s.ctlp.length ≤ 4)
    (hm : ∀ c : Claim, c.at l = true → s.Meets c) (hbelow : s.MeetsBelow stack) : s.Inv :=
  ⟨proper_of_meets (sound_of_meets hin hr hl hok hd hm) hl hm hbelow,
    fun _ he => guarded_of_meets hl hm he⟩

end

end Sys2Proof.Machine
end

section
/-! What a change of some fields of the state keeps, and what becomes of each operation of the
decoder: it stops, or it is performed and changes these fields. -/

namespace Sys2Proof.Machine

open Sys2Proof

/-! ## What a change of some fields keeps -/

/-- A field is the same in two states. -/
def Field.Same (s t : State) : Field → Prop
  | .reg r => t.reg r = s.reg r
  | .nr => t.nr = s.nr
  | .rt => t.rt = s.rt
  | .i => t.i = s.i
  | .k => t.k = s.k
  | .mdir => t.mdir = s.mdir
  | .raceEmit => t.raceEmit = s.raceEmit
  | .pos c => t.pos.get c = s.pos.get c
  | .acc a => t.acc a = s.acc a
  | .mb => t.mb = s.mb
  | .callers => t.ctlp.tail = s.ctlp.tail

theorem Field.Same.trans {s t u : State} {f : Field} (h : f.Same s t) (k : f.Same t u) :
    f.Same s u := by
  cases f <;> exact Eq.trans k h

/-- `t` differs from `s` in the fields `changed` at most, of those that the invariant reads. -/
structure State.SameBut (changed : List Field) (s t : State) : Prop where
  cfg : t.cfg = s.cfg := by rfl
  cfgl : t.cfgl = s.cfgl := by rfl
  cap : t.cap = s.cap := by rfl
  hz : t.hz = s.hz := by rfl
  fields : ∀ f, f ∉ changed → f.Same s t

theorem State.SameBut.trans {s t u : State} {xs ys : List Field} (h : s.SameBut xs t)
    (k : t.SameBut ys u) : s.SameBut (ys ++ xs) u where
  cfg := k.cfg.trans h.cfg
  cfgl := k.cfgl.trans h.cfgl
  cap := k.cap.trans h.cap
  hz := k.hz.trans h.hz
  fields f hf := by
    rw [List.mem_append, not_or] at hf
    exact (h.fields f hf.2).trans (k.fields f hf.1)

theorem State.SameBut.inputs {s t : State} {xs : List Field} (h : s.SameBut xs t)
    (hs : s.SoundInputs) : t.SoundInputs where
  capture := h.cap ▸ hs.capture
  horizon := h.hz ▸ h.cap ▸ hs.horizon
  reserved := h.cfg ▸ h.cfgl ▸ hs.reserved
  legal := h.cfgl ▸ hs.legal

theorem State.Counted.of_same {s t : State} {p : Progress} (h : s.Counted p)
    (hcfgl : t.cfgl = s.cfgl) (hi : t.i = s.i) (hmb : t.mb = s.mb)
    (hacc : ∀ a, t.acc a = s.acc a) : t.Counted p := by
  have hN : t.N = s.N := by rw [State.N, hcfgl, State.N]
  have hedge : t.edge = s.edge := by rw [State.edge, hcfgl, State.edge]
  have hnoted : t.noted p = s.noted p := by
    cases p <;> simp only [State.noted, hedge, hi, hN]
  have hadded (a : AccSel) : t.added a p = s.added a p := by
    cases p <;> simp only [State.added, hi, hnoted]
  obtain ⟨hcount, hleft⟩ := h
  refine ⟨by rw [hmb, hnoted, hcount], fun a ha => ?_⟩
  rw [hacc, hadded, hN]
  exact hleft a (by rwa [State.present, ← hcfgl])

/-- A claim that reads no changed field is kept. -/
theorem State.SameBut.meets {s t : State} {xs : List Field} (h : s.SameBut xs t) {c : Claim}
    (hc : ∀ f ∈ c.reads, f ∉ xs) (hm : s.Meets c) : t.Meets c := by
  have hsame : ∀ f ∈ c.reads, f.Same s t := fun f hf => h.fields f (hc f hf)
  have hcfgl := h.cfgl
  have hcap := h.cap
  have hcounted (hreads : ∀ f ∈ (Claim.counted .all).reads, f ∈ c.reads) {p : Progress}
      (hp : s.Counted p) : t.Counted p :=
    hp.of_same hcfgl (hsame .i (hreads _ (by decide))) (hsame .mb (hreads _ (by decide)))
      fun a => hsame (.acc a) (hreads _ (by cases a <;> decide))
  cases c
  case position =>
    intro c hp
    rw [hsame (.pos c) (by cases c <;> decide), h.hz]
    exact hm c (by rwa [State.present, ← hcfgl])
  case remaining | width =>
    intro a
    rw [hsame (.acc a) (by cases a <;> decide), State.N, hcfgl]
    exact hm a
  case counted p => exact hcounted (fun _ hf => hf) hm
  case countedCaller =>
    intro m htop h7 p hp
    rw [hsame .callers (by decide)] at htop
    exact hcounted (by decide) (hm m htop h7 p hp)
  all_goals
    simp only [Claim.reads, List.forall_mem_cons, List.not_mem_nil, false_imp_iff, implies_true,
      and_true, Field.Same, PerChannel.get, State.reg, State.acc] at hsame
    simpa only [State.Meets, State.present, State.N, State.edge, State.levelOf, State.enpol,
      State.FirstAfter, State.ClockMayAdvance, State.reg, PerChannel.get, hcfgl, hcap, hsame]
      using hm


section
variable (s : State)

/-- A change of the parts that the invariant does not read. -/
theorem State.SameBut.unread (op : BitVec 8) (runState : RunState) (cause : Cause)
    (ansBit : Bool) (ansPos : Sample) (sink : List Record) :
    s.SameBut [] { s with
      op := op, runState := runState, cause := cause, ansBit := ansBit, ansPos := ansPos
      sink := sink } where
  fields f _ := by cases f <;> rfl

theorem State.SameBut.stack (ctlp : List Point) : s.SameBut [.callers] { s with ctlp := ctlp } where
  fields f hf := by
    cases f
    case callers => simp at hf
    all_goals rfl

theorem State.SameBut.goto (l : Label) : s.SameBut [] (s.goto l) where
  fields f _ := by cases f <;> rfl

theorem State.SameBut.setReg (r : SampleReg) (v : Sample) : s.SameBut [.reg r] (s.setReg r v) where
  cfg := by simp
  cfgl := by simp
  cap := by simp
  hz := by simp
  fields f hf := by
    cases f
    case reg q => exact s.reg_setReg_of_ne r q v (by simpa using hf)
    all_goals cases r <;> rfl

theorem State.SameBut.setPos (c : Channel) (t : Sample) :
    s.SameBut [.pos c] { s with pos := s.pos.set c t } where
  fields f hf := by
    cases f
    case pos d => exact s.pos.get_set_of_ne c d t (by simpa using hf)
    all_goals rfl

theorem State.SameBut.setAcc (a : AccSel) (x : Accumulator) :
    s.SameBut [.acc a] (s.setAcc a x) where
  cfg := by simp
  cfgl := by simp
  cap := by simp
  hz := by simp
  fields f hf := by
    cases f
    case acc b => exact s.acc_setAcc_of_ne a b x (by simpa using hf)
    all_goals cases a <;> rfl

theorem State.SameBut.setNr (b : Bool) : s.SameBut [.nr] { s with nr := b } where
  fields f hf := by
    cases f
    case nr => simp at hf
    all_goals rfl

theorem State.SameBut.setRt (b : Bool) : s.SameBut [.rt] { s with rt := b } where
  fields f hf := by
    cases f
    case rt => simp at hf
    all_goals rfl

theorem State.SameBut.setI (i : BitVec 7) : s.SameBut [.i] { s with i := i } where
  fields f hf := by
    cases f
    case i => simp at hf
    all_goals rfl

theorem State.SameBut.setK (k : BitVec 7) : s.SameBut [.k] { s with k := k } where
  fields f hf := by
    cases f
    case k => simp at hf
    all_goals rfl

theorem State.SameBut.setMdir (d : BitVec 2) : s.SameBut [.mdir] { s with mdir := d } where
  fields f hf := by
    cases f
    case mdir => simp at hf
    all_goals rfl

theorem State.SameBut.setRaceEmit (b : Bool) : s.SameBut [.raceEmit] { s with raceEmit := b } where
  fields f hf := by
    cases f
    case raceEmit => simp at hf
    all_goals rfl

theorem State.SameBut.setMb (mb : List Sample) : s.SameBut [.mb] { s with mb := mb } where
  fields f hf := by
    cases f
    case mb => simp at hf
    all_goals rfl

end

/-! ## What an operation of the decoder changes -/

/-- The operation was performed and changed the fields `xs` at most. -/
structure State.Performed (xs : List Field) (s t : State) : Prop where
  same : s.SameBut xs t
  ctlp : t.ctlp = s.ctlp
  runState : t.runState = s.runState.resumed

/-- The operation waits or has ended the run. -/
structure State.Stopped (s t : State) : Prop where
  same : s.SameBut [.callers] t
  stops : (t.runState = .waiting ∧ t.ctlp = s.ctlp) ∨ (t.inRun = false ∧ t.ctlp = [])

theorem State.Stopped.fault (s : State) (code : BitVec 8) : s.Stopped (s.internalFault code) where
  same := (State.SameBut.unread s code .fault .internalFault _ _ _).trans (.stack _ [])
  stops := .inr ⟨rfl, rfl⟩

theorem State.Stopped.needsData (s : State) (c : Channel) (code : BitVec 8) :
    s.Stopped (s.needsData c code) := by
  unfold State.needsData; split
  · exact ⟨(State.SameBut.unread s code .doneEod .endOfData _ _ _).trans (.stack _ []),
      .inr ⟨rfl, rfl⟩⟩
  · exact ⟨(State.SameBut.unread s code .waiting _ _ _ _).trans (.stack _ s.ctlp),
      .inl ⟨rfl, rfl⟩⟩

/-- The operation was performed and changed nothing that the invariant reads. -/
theorem State.Performed.unread (s : State) (code : BitVec 8) (ansBit : Bool) (ansPos : Sample)
    (sink : List Record) : s.Performed []
      { s.performing code with ansBit := ansBit, ansPos := ansPos, sink := sink } :=
  ⟨.unread s _ _ _ _ _ _, rfl, rfl⟩

theorem State.Performed.setPos (s : State) (code : BitVec 8) (c : Channel) (t : Sample) :
    s.Performed [.pos c] { s.performing code with pos := s.pos.set c t } :=
  ⟨(State.SameBut.unread s code _ _ _ _ _).trans (.setPos _ c t), rfl, rfl⟩

theorem State.Performed.setAcc (s : State) (code : BitVec 8) (a : AccSel) (x : Accumulator) :
    s.Performed [.acc a] ((s.performing code).setAcc a x) :=
  ⟨(State.SameBut.unread s code _ _ _ _ _).trans (.setAcc _ a x), by simp, by simp⟩

/-- What becomes of an operation: it stops, or it is performed, changes the fields `xs` at most, and
the state after it meets `Q`. -/
def State.Result (s : State) (xs : List Field) (Q : State → Prop) (u : State) : Prop :=
  s.Stopped u ∨ (s.Performed xs u ∧ Q u)

theorem State.SameBut.meets_position {s u : State} {xs : List Field} {c : Channel} {t : Sample}
    (h : s.SameBut xs u) (hu : u.pos = s.pos.set c t) (ht : t.toNat < s.hz.get c)
    (hs : s.Meets .position) : u.Meets .position := by
  intro d hd
  rw [hu, h.hz]
  by_cases hdc : d = c
  · rwa [hdc, PerChannel.get_set_self]
  · rw [PerChannel.get_set_of_ne _ _ _ _ hdc]
    exact hs d (by rwa [State.present, ← h.cfgl])

section
variable {c : Channel} {code : BitVec 8} {s u : State} {xs : List Field} {Q : State → Prop}

theorem onChannel_result {f : State → State} (h : onChannel c code s f = .next u)
    (hf : s.Result xs Q (f s)) : s.Result xs Q u := by
  cases h; split
  · exact hf
  · exact .inl (.fault s code)

theorem withReg_result {r : SampleReg} {f : Sample → State}
    (hf : s.Result xs Q (f (s.reg r).val)) : s.Result xs Q (withReg r code s f) := by
  unfold withReg; split
  · exact hf
  · exact .inl (.fault s code)

theorem levelOp_result (h : levelOp c code s = .next u) :
    s.Result [] (fun u => u.ansBit = s.levelOf c) u :=
  onChannel_result h (.inr ⟨.unread s code _ _ _, rfl⟩)

theorem posOp_result (h : posOp c code s = .next u) :
    s.Result [] (fun u => u.ansPos = s.pos.get c) u :=
  onChannel_result h (.inr ⟨.unread s code _ _ _, rfl⟩)

theorem hasMoreOp_result (h : hasMoreOp c code s = .next u) : s.Result [] (fun _ => True) u :=
  onChannel_result h (.inr ⟨.unread s code _ _ _, trivial⟩)

theorem nextEdgeOp_result (h : nextEdgeOp c code s = .next u) :
    s.Result [] (fun u => s.NextAvailable c u.ansPos) u := by
  refine onChannel_result h ?_
  split
  case h_1 t ht => exact .inr ⟨.unread s code _ _ _, earliest_ahead_iff.mp ht⟩
  case h_2 => exact .inl (.needsData s c code)

theorem advEdgeOp_result (h : advEdgeOp c code s = .next u) :
    s.Result [.pos c] (fun u => (s.Meets .position → u.Meets .position) ∧
      s.NextAvailable c (u.pos.get c)) u := by
  refine onChannel_result h ?_
  split
  case h_1 t ht =>
    have hnext := earliest_ahead_iff.mp ht
    have hdone := State.Performed.setPos s code c t
    refine .inr ⟨hdone, hdone.same.meets_position rfl hnext.2.2.1, ?_⟩
    simpa using hnext
  case h_2 => exact .inl (.needsData s c code)

theorem advToOp_result {r : SampleReg} (h : advToOp c r code s = .next u) :
    s.Result [.pos c] (fun u => (s.Meets .position → u.Meets .position) ∧
      (s.pos.get c < (s.reg r).val → u.pos.get c = (s.reg r).val)) u := by
  refine onChannel_result h (withReg_result ?_)
  split
  case isTrue hle =>
    have hsame := State.SameBut.unread s code s.runState.resumed s.cause s.ansBit s.ansPos s.sink
    refine .inr ⟨⟨hsame.trans (ys := [.pos c]) ⟨rfl, rfl, rfl, rfl, fun f _ => ?_⟩, rfl, rfl⟩,
      hsame.meets fun _ _ => List.not_mem_nil, fun hlt => absurd hle (BitVec.not_le.mpr hlt)⟩
    cases f <;> rfl
  case isFalse =>
    split
    case isTrue hlt =>
      have hdone := State.Performed.setPos s code c (s.reg r).val
      exact .inr ⟨hdone, hdone.same.meets_position rfl hlt, fun _ => by simp⟩
    case isFalse => exact .inl (.needsData s c code)

theorem wouldCrossOp_result {r : SampleReg} (h : wouldCrossOp c r code s = .next u) :
    s.Result [] (fun u => u.ansBit = false →
      ∀ e ∈ (s.cap.wave.get c).edges, ¬ (s.pos.get c < e ∧ e ≤ (s.reg r).val)) u := by
  refine onChannel_result h (withReg_result ?_)
  split
  case isTrue hle =>
    exact .inr ⟨.unread s code _ _ _, fun _ e _ ⟨hlt, he⟩ =>
      absurd (BitVec.le_trans he hle) (BitVec.not_le.mpr hlt)⟩
  case isFalse =>
    split
    case isTrue =>
      refine .inr ⟨.unread s code _ _ _, fun hno e he hcross => ?_⟩
      have hyes : s.crosses c (s.reg r).val = true :=
        List.any_eq_true.mpr ⟨e, he, by simpa using hcross⟩
      exact absurd hyes (by simp [show s.crosses c (s.reg r).val = false from hno])
    case isFalse => exact .inl (.needsData s c code)

theorem accResetOp_result {a : AccSel} (h : accResetOp a code s = .next u) :
    s.Result [.acc a] (fun u => u.acc a = ⟨0#64, cfgN s.cfgl⟩) u := by
  cases h
  exact .inr ⟨.setAcc s code a _, by simp⟩

theorem accAddBitOp_result {a : AccSel} {b : Level} (h : accAddBitOp a b code s = .next u) :
    s.Result [.acc a] (fun u => (s.acc a).r ≠ 0#7 ∧
      u.acc a = (s.acc a).addBit (cfgOrder s.cfgl) s.N b) u := by
  cases h; split
  case isTrue => exact .inl (.fault s code)
  case isFalse hne => exact .inr ⟨.setAcc s code a _, hne, by simp⟩

theorem pollOp_result (h : pollOp code s = .next u) : s.Result [] (fun _ => True) u := by
  cases h; split
  case isTrue =>
    exact .inl ⟨(State.SameBut.unread s code .doneCancel .cancelled _ _ _).trans (.stack _ []),
      .inr ⟨rfl, rfl⟩⟩
  case isFalse => exact .inr ⟨.unread s code _ _ _, trivial⟩

theorem emit_result (r : Record) : s.Result [] (fun _ => True) (s.emit code r) :=
  .inr ⟨.unread s code _ _ _, trivial⟩

theorem emitStartOp_result (h : emitStartOp code s = .next u) :
    s.Result [] (fun _ => True) u := by
  cases h; exact withReg_result (emit_result _)

theorem emitErrorOp_result (h : emitErrorOp code s = .next u) :
    s.Result [] (fun _ => True) u := by
  cases h; exact withReg_result (withReg_result (emit_result _))

theorem emitDisableOp_result {r : SampleReg} (h : emitDisableOp r code s = .next u) :
    s.Result [] (fun _ => True) u := by
  cases h; exact withReg_result (emit_result _)

theorem emitResultOp_result (h : emitResultOp code s = .next u) :
    s.Result [] (fun _ => True) u := by
  cases h; exact withReg_result (emit_result _)

theorem emitErrorMarkerOp_result (h : emitErrorMarkerOp code s = .next u) :
    s.Result [] (fun _ => True) u := by
  cases h; exact withReg_result (emit_result _)

theorem emitBitMarkerOp_result {kind : MarkerKind} (h : emitBitMarkerOp kind code s = .next u) :
    s.Result [.k] (fun u => s.k.toNat < s.mb.length ∧ u.k = s.k + 1) u := by
  cases h; split
  case h_1 t ht =>
    refine .inr ⟨⟨(State.SameBut.unread s code _ _ _ _ _).trans (.setK _ _), rfl, rfl⟩, ?_, rfl⟩
    exact (List.getElem?_eq_some_iff.mp ht).1
  case h_2 => exact .inl (.fault s code)

end

end Sys2Proof.Machine
end

section
/-! From one line to the next: what `goto`, `return` and `call` ask so that the invariant holds
where they leave control. -/

namespace Sys2Proof.Machine

open Sys2Proof

/-! ## From one line to the next -/

/-- The invariant holds in `s`, and control is at the line `l` of a run. -/
structure State.InLine (s : State) (l : Label) (stack : List Point) : Prop where
  inv : s.Inv
  run : s.inRun = true
  ctlp : s.ctlp = .line l :: stack

/-- Control is still at `l`, and since `s` the line has changed the fields `xs` at most. -/
structure State.Mid (s : State) (l : Label) (stack : List Point) (xs : List Field) (u : State) :
    Prop where
  start : s.InLine l stack
  same : s.SameBut xs u
  run : u.inRun = true
  ctlp : u.ctlp = .line l :: stack

/-- Each wanted claim is one of `gained`, or is known and reads none of the changed fields. -/
def gives (known wanted : Claim → Bool) (xs : List Field) (gained : List Claim) : Bool :=
  Claim.all.all fun c =>
    !wanted c || gained.contains c || (known c && c.reads.all fun f => !xs.contains f)

/-- A change of `xs` at `l` leaves the claims of the labels below: they read nothing of `xs`, or
`l` is one of `RESYNC` or `GET_WORD`, whose callers claim nothing. -/
def keepsBelow (l : Label) (xs : List Field) : Bool :=
  placeOf l == 3 || placeOf l == 7 ||
    [Field.reg .es, .reg .fs, .nr, .i].all fun f => !xs.contains f

theorem gives_self (l : Label) : gives (fun c => c.at l) (fun c => c.at l) [] [] = true := by
  simp [gives]

theorem meets_of_gives {s t : State} {known wanted : Claim → Bool} {xs : List Field}
    {gained : List Claim} (hg : gives known wanted xs gained = true)
    (same : s.SameBut xs t) (hknown : ∀ c, known c = true → s.Meets c)
    (hnew : gained.Forall t.Meets) {c : Claim} (hc : wanted c = true) : t.Meets c := by
  have h := List.all_eq_true.mp hg c c.mem_all
  simp only [hc, Bool.not_true, Bool.false_or, Bool.or_eq_true, Bool.and_eq_true,
    List.all_eq_true, Bool.not_eq_true', List.contains_iff_mem] at h
  rcases h with h | ⟨hk, hreads⟩
  · exact List.forall_iff_forall_mem.mp hnew c h
  · exact same.meets (fun f hf hx => by simpa [hx] using hreads f hf) (hknown c hk)

theorem mayReturnTo_cases {p : BitVec 5} {m : Label} (h : mayReturnTo p m = true) :
    (p = 2 ∧ m = .run2) ∨ (p = 3 ∧ (m = .run3 ∨ m = .run4 ∨ m = .gwRet)) ∨ (p = 4 ∧ m = .rs2) ∨
    (p = 5 ∧ (m = .rs4 ∨ m = .ae3)) ∨ (p = 6 ∧ (m = .gw6 ∨ m = .gw12 ∨ m = .gw15)) ∨
    (p = 7 ∧ m = .run4) ∨ (p = 8 ∧ (m = .gw10 ∨ m = .gw4next)) := by
  cases m <;> simp_all [mayReturnTo]

theorem stackOk_caller {l m : Label} {stack : List Point}
    (h : stackOk (.line l :: .line m :: stack) = true) :
    mayReturnTo (placeOf l) m = true ∧ stackOk (.line m :: stack) = true := by
  simpa [stackOk] using h

/-- Below `RESYNC` and `GET_WORD` stand only lines of `RUN` and the return of `GET_WORD`. -/
theorem stackOk_below {l : Label} {stack : List Point} (h : stackOk (.line l :: stack) = true)
    (hp : placeOf l = 1 ∨ placeOf l = 3 ∨ placeOf l = 7) {k : Label} (hk : .line k ∈ stack) :
    k = .run3 ∨ k = .run4 ∨ k = .gwRet := by
  induction stack generalizing l with
  | nil => cases hk
  | cons q rest ih =>
    cases q with
    | word c => simp [stackOk] at h
    | line m =>
      obtain ⟨hm, hrest⟩ := stackOk_caller h
      have hcases := mayReturnTo_cases hm
      have hmk : m = .run3 ∨ m = .run4 ∨ m = .gwRet := by
        rcases hp with hp | hp | hp <;> simp [hp] at hcases <;> tauto
      rcases List.mem_cons.mp hk with hk | hk
      · cases hk; exact hmk
      · refine ih hrest ?_ hk
        rcases hmk with rfl | rfl | rfl <;> decide

theorem Claim.reads_of_standing {c : Claim} (hc : c.standing = true) :
    ∀ f ∈ c.reads, f ∈ [Field.reg .es, .reg .fs, .nr, .i] := by
  revert hc; cases c <;> simp [Claim.standing, Claim.reads]

/-- The claims of how far the word has been sampled. -/
def Claim.isCount : Claim → Bool
  | .counted _ => true
  | _ => false

section
variable {s t u : State} {l m : Label} {stack : List Point} {xs : List Field} {gained : List Claim}

theorem State.InLine.mid (h : s.InLine l stack) : s.Mid l stack [] s :=
  ⟨h, ⟨rfl, rfl, rfl, rfl, fun f _ => by cases f <;> rfl⟩, h.run, h.ctlp⟩

theorem State.InLine.stackOk (h : s.InLine l stack) : stackOk (.line l :: stack) = true :=
  h.ctlp ▸ h.inv.sound.stack

theorem State.InLine.depth (h : s.InLine l stack) : stack.length ≤ 3 := by
  have hd := h.inv.sound.depth
  rw [h.ctlp, List.length_cons] at hd
  omega

theorem State.InLine.meets (h : s.InLine l stack) {c : Claim} (hc : c.at l = true) : s.Meets c :=
  h.inv.meets h.run h.ctlp hc

theorem State.InLine.meetsBelow (h : s.InLine l stack) (same : s.SameBut xs t)
    (hk : keepsBelow l xs = true) : t.MeetsBelow stack := by
  intro k hk' c hc hat
  have hs := h.inv.meetsBelow h.ctlp k hk' c hc hat
  simp only [keepsBelow, Bool.or_eq_true, beq_iff_eq] at hk
  rcases hk with hp | hx
  · have hnone : k = .run3 ∨ k = .run4 ∨ k = .gwRet :=
      stackOk_below h.stackOk (.inr hp) hk'
    revert hc hat
    rcases hnone with rfl | rfl | rfl <;> cases c <;> simp [Claim.standing, Claim.at, needsEnable,
      needsFirst, inLoop]
  · refine same.meets (fun f hf hxs => ?_) hs
    simpa [hxs] using List.all_eq_true.mp hx f (Claim.reads_of_standing hc f hf)

/-- A state of a run whose stack is nested and whose labels' claims are given meets the
invariant. -/
theorem State.InLine.finish {known : Claim → Bool} {rest : List Point} (h : s.InLine l stack)
    (same : s.SameBut xs t) (hr : t.inRun = true) (hl : t.ctlp = .line m :: rest)
    (hok : Machine.stackOk (.line m :: rest) = true) (hd : rest.length ≤ 3)
    (hknown : ∀ c, known c = true → s.Meets c)
    (hg : gives known (fun c => c.at m) xs gained = true) (hnew : gained.Forall t.Meets)
    (hbelow : t.MeetsBelow rest) : t.Inv :=
  inv_of_meets (same.inputs h.inv.sound.inputs) hr hl (hl ▸ hok)
    (by rw [hl]; exact Nat.succ_le_succ hd)
    (fun _ hc => meets_of_gives hg same hknown hnew hc) hbelow

/-- A run that has ended meets the invariant. -/
theorem State.InLine.ended (h : s.InLine l stack) (same : s.SameBut xs t) (hr : t.inRun = false)
    (hl : t.ctlp = []) (hm : ∀ c : Claim, c.always = true → t.Meets c) : t.Inv :=
  inv_of_betweenRuns (same.inputs h.inv.sound.inputs) hr hl hm

theorem Claim.at_of_always {c : Claim} (h : c.always = true) (l : Label) : c.at l = true := by
  revert h; cases c <;> simp [Claim.always, Claim.at]

theorem Claim.reads_of_always {c : Claim} (h : c.always = true) :
    ∀ f ∈ c.reads, f ∉ [Field.callers] := by
  revert h; cases c <;> simp [Claim.always, Claim.reads]

/-- What `goto m` asks. -/
def gotoOk (l m : Label) (xs : List Field) (gained : List Claim) : Bool :=
  placeOf m == placeOf l && gives (fun c => c.at l) (fun c => c.at m) xs gained && keepsBelow l xs

theorem State.Mid.goto (h : s.Mid l stack xs u) (m : Label) (gained : List Claim)
    (hok : gotoOk l m xs gained = true) (hnew : gained.Forall u.Meets) : (u.goto m).Inv := by
  simp only [gotoOk, Bool.and_eq_true, beq_iff_eq] at hok
  obtain ⟨⟨hp, hg⟩, hb⟩ := hok
  have hgoto : u.SameBut [] (u.goto m) := .goto u m
  have same : s.SameBut xs (u.goto m) := h.same.trans hgoto
  exact h.start.finish same h.run (by rw [State.goto_ctlp, h.ctlp, List.tail_cons])
    ((stackOk_replace stack hp).trans h.start.stackOk) h.start.depth (fun _ => h.start.meets) hg
    (hnew.imp fun _ hc => hgoto.meets (fun _ _ => List.not_mem_nil) hc)
    (h.start.meetsBelow same hb)

/-- What is known where the procedure of `l` returns to `m`. `RACE_CHECK` knows its caller's bit
counts. -/
def knownAtReturn (l m : Label) (c : Claim) : Bool :=
  c.at l || (c.at m && (c.standing || (labelProc l == 6 && c.isCount)))

/-- What a `return` to `m` asks. -/
def retOk (l m : Label) (xs : List Field) (gained : List Claim) : Bool :=
  gives (knownAtReturn l m) (fun c => c.at m) (.callers :: xs) gained && keepsBelow l xs

theorem labelProc_of_race {l : Label} (h : labelProc l = 6) : placeOf l = 6 := by
  revert h; cases l <;> decide

theorem State.InLine.meets_knownAtReturn {rest : List Point}
    (h : s.InLine l (.line m :: rest)) {c : Claim} (hc : knownAtReturn l m c = true) :
    s.Meets c := by
  simp only [knownAtReturn, Bool.or_eq_true, Bool.and_eq_true, beq_iff_eq] at hc
  rcases hc with hc | ⟨hm, hc | ⟨h6, hc⟩⟩
  · exact h.meets hc
  · exact h.inv.meetsBelow h.ctlp m List.mem_cons_self c hc hm
  · have hcaller := mayReturnTo_cases (stackOk_caller h.stackOk).1
    rw [labelProc_of_race h6] at hcaller
    have h7 : labelProc m = 7 := by
      rcases (show m = .gw6 ∨ m = .gw12 ∨ m = .gw15 by simpa using hcaller) with
        rfl | rfl | rfl <;> rfl
    cases c
    case counted p =>
      exact h.meets (c := .countedCaller) (beq_iff_eq.mpr h6) m (by rw [h.ctlp]; rfl) h7 p
        (beq_iff_eq.mp hm)
    all_goals cases hc

theorem State.Mid.retTo {rest : List Point} (h : s.Mid l (.line m :: rest) xs u)
    (gained : List Claim) (hok : retOk l m xs gained = true) (hnew : gained.Forall u.ret.Meets) :
    u.ret.Inv := by
  simp only [retOk, Bool.and_eq_true] at hok
  obtain ⟨hg, hb⟩ := hok
  have hret : u.SameBut [.callers] u.ret := .stack u _
  have hbelow := h.start.meetsBelow (h.same.trans hret) (xs := .callers :: xs) hb
  have hd := h.start.depth
  rw [List.length_cons] at hd
  exact h.start.finish (h.same.trans hret) h.run (by rw [State.ret_ctlp, h.ctlp, List.tail_cons])
    (stackOk_caller h.start.stackOk).2 (by omega) (fun _ => h.start.meets_knownAtReturn) hg hnew
    fun k hk => hbelow k (List.mem_cons_of_mem _ hk)

/-- The labels a procedure may return to. -/
def returnLabels : List Label :=
  [.run2, .run3, .run4, .gwRet, .rs2, .rs4, .ae3, .gw6, .gw12, .gw15, .gw10, .gw4next]

/-- What a `return` asks, whichever the caller. -/
def retsOk (l : Label) (xs : List Field) (gained : List Claim) : Bool :=
  placeOf l != 1 &&
    returnLabels.all fun m => !mayReturnTo (placeOf l) m || retOk l m xs gained

theorem State.InLine.caller (h : s.InLine l stack) (hp : placeOf l ≠ 1) :
    ∃ m rest, stack = .line m :: rest ∧ mayReturnTo (placeOf l) m = true := by
  have hok := h.stackOk
  rcases stack with _ | ⟨m | c, rest⟩
  · exact absurd (beq_iff_eq.mp hok) hp
  · exact ⟨m, rest, rfl, (stackOk_caller hok).1⟩
  · simp [Machine.stackOk] at hok

theorem State.Mid.ret (h : s.Mid l stack xs u) (gained : List Claim)
    (hok : retsOk l xs gained = true) (hnew : gained.Forall u.ret.Meets) : u.ret.Inv := by
  simp only [retsOk, Bool.and_eq_true, bne_iff_ne, ne_eq] at hok
  obtain ⟨m, rest, rfl, hm⟩ := h.start.caller hok.1
  have hmem : m ∈ returnLabels := by
    rcases mayReturnTo_cases hm with h | h | h | h | h | h | h <;> simp [returnLabels] <;> tauto
  have hret := List.all_eq_true.mp hok.2 m hmem
  rw [hm, Bool.not_true, Bool.false_or] at hret
  exact h.retTo gained hret hnew

/-- What a `call` of the procedure entered at `e` asks, where `f` follows the call. -/
def callOk (l f e : Label) (xs : List Field) (gained : List Claim) : Bool :=
  placeOf f == placeOf l && mayReturnTo (placeOf e) f &&
    gives (fun c => c.at l) (fun c => c.at e || (c.standing && c.at f)) (.callers :: xs) gained &&
    keepsBelow l xs

/-- The state with `e` pushed on `f`. -/
def State.pushed (u : State) (f e : Label) (stack : List Point) : State :=
  { u with ctlp := .line e :: .line f :: stack }

theorem State.Mid.call (h : s.Mid l stack xs u) (f e : Label) (gained : List Claim)
    (hok : callOk l f e xs gained = true) (hnew : gained.Forall (u.pushed f e stack).Meets) :
    (u.call f e).Inv := by
  simp only [callOk, Bool.and_eq_true, beq_iff_eq] at hok
  obtain ⟨⟨⟨hp, hr⟩, hg⟩, hb⟩ := hok
  have same : s.SameBut (.callers :: xs) (u.pushed f e stack) := h.same.trans (.stack u _)
  have hmeets {c : Claim} (hc : (c.at e || (c.standing && c.at f)) = true) :
      (u.pushed f e stack).Meets c :=
    meets_of_gives hg same (fun _ => h.start.meets) hnew hc
  have hgoto : (u.goto f).ctlp = .line f :: stack := by
    rw [State.goto_ctlp, h.ctlp, List.tail_cons]
  by_cases hroom : stack.length < 3
  · have hcall : u.call f e = u.pushed f e stack := by
      rw [State.call, State.enter_of_lt _ _ (by rw [hgoto]; exact Nat.succ_lt_succ hroom), hgoto]
      rfl
    have hbelow := h.start.meetsBelow same hb
    rw [hcall]
    refine inv_of_meets (same.inputs h.start.inv.sound.inputs) h.run rfl ?_
      (Nat.succ_le_succ hroom) (fun c hc => hmeets (by simp [hc])) fun k hk c hc hat => ?_
    · have hok := (stackOk_replace stack hp).trans h.start.stackOk
      simp [State.pushed, Machine.stackOk, hr, hok]
    · rcases List.mem_cons.mp hk with hk | hk
      · cases hk; exact hmeets (by simp [hc, hat])
      · exact hbelow k hk c hc hat
  · have hcall : u.call f e = (u.goto f).internalFault (u.goto f).op := by
      rw [State.call, State.enter_of_full _ _ (by rw [hgoto]; simp; omega)]
    have hend : (u.pushed f e stack).SameBut [.callers] (u.call f e) := by
      rw [hcall]
      exact (State.SameBut.unread _ _ .fault .internalFault _ _ _).trans (.stack _ [])
    exact h.start.ended (same.trans hend) (by rw [hcall]; rfl) (by rw [hcall]; rfl) fun c hc =>
      hend.meets (Claim.reads_of_always hc) (hmeets (by simp [Claim.at_of_always hc e]))

/-- An operation that stops leaves the invariant: a wait changes nothing that it reads, and between
runs it asks less. -/
theorem State.InLine.stopped (h : s.InLine l stack) (hs : s.Stopped t) : t.Inv := by
  obtain ⟨same, ⟨hr, hl⟩ | ⟨hr, hl⟩⟩ := hs
  · have hsame : s.SameBut [] t := by
      refine ⟨same.cfg, same.cfgl, same.cap, same.hz, fun f _ => ?_⟩
      by_cases hf : f = .callers
      · rw [hf]; exact congrArg List.tail hl
      · exact same.fields f (by simpa using hf)
    exact h.finish (known := fun c => c.at l) (gained := []) hsame (by simp [State.inRun, hr])
      (hl.trans h.ctlp) h.stackOk h.depth (fun _ => h.meets) (gives_self l) trivial
      (fun k hk c hc hat => hsame.meets (fun _ _ => List.not_mem_nil)
        (h.inv.meetsBelow h.ctlp k hk c hc hat))
  · exact h.ended same hr hl fun c hc =>
      same.meets (Claim.reads_of_always hc) (h.meets (Claim.at_of_always hc l))

end

end Sys2Proof.Machine
end

section
/-! The next transition of a channel: it changes the level, and no other stands before it. -/

namespace Sys2Proof.Machine

open Sys2Proof

/-! ## The next transition of a channel -/

theorem State.NextAvailable.firstAfter {s : State} {c : Channel} {t : Sample}
    (h : s.NextAvailable c t) : s.FirstAfter c t := by
  obtain ⟨hmem, hlt, havail, hleast⟩ := h
  refine ⟨hmem, hlt, fun u hu hpu => ?_⟩
  by_cases hau : u.toNat < s.hz.get c
  · exact hleast u hu hpu hau
  · exact BitVec.le_def.mpr (by omega)

theorem State.FirstAfter.unique {s : State} {c : Channel} {t u : Sample} (h : s.FirstAfter c t)
    (k : s.FirstAfter c u) : t = u :=
  BitVec.le_antisymm (h.2.2 u k.1 k.2.1) (k.2.2 t h.1 h.2.1)

/-- Up to the next transition `t` after `p` stand those up to `p` and `t` itself. -/
theorem countP_le_next {p t : Sample} (hpt : p < t) (l : List Sample)
    (hl : ∀ u ∈ l, p < u → t ≤ u) :
    l.countP (fun e => decide (e ≤ t)) = l.countP (fun e => decide (e ≤ p)) + l.count t := by
  induction l with
  | nil => rfl
  | cons a l ih =>
    have ih := ih fun u hu => hl u (List.mem_cons_of_mem _ hu)
    have ha := hl a List.mem_cons_self
    simp only [List.countP_cons, List.count_cons, ih, decide_eq_true_eq, beq_iff_eq]
    by_cases hap : a ≤ p
    · have hat : a ≤ t := BitVec.le_trans hap (BitVec.le_of_lt hpt)
      have hne : a ≠ t := by rintro rfl; exact absurd hap (BitVec.not_le.mpr hpt)
      simp only [hap, hat, hne, if_true, if_false]
      omega
    · have hta := ha (BitVec.not_le.mp hap)
      have hiff : a ≤ t ↔ a = t :=
        ⟨fun h => BitVec.le_antisymm h hta, fun h => h ▸ BitVec.le_refl _⟩
      simp only [hap, hiff, if_false]
      omega

/-- A transition changes the level. -/
theorem Waveform.levelAt_next {w : Waveform} {len : Nat} {p t : Sample} (hwf : w.wf len = true)
    (hmem : t ∈ w.edges) (hpt : p < t) (hleast : ∀ u ∈ w.edges, p < u → t ≤ u) :
    w.levelAt t = !w.levelAt p := by
  simp only [Waveform.wf, Bool.and_eq_true, decide_eq_true_eq] at hwf
  have hnodup : w.edges.Nodup := hwf.1.imp fun h => by rintro rfl; exact BitVec.lt_irrefl _ h
  have hcount := countP_le_next hpt w.edges hleast
  rw [List.count_eq_one_of_mem hnodup hmem] at hcount
  rw [Waveform.levelAt, Waveform.levelAt, hcount]
  rcases Nat.mod_two_eq_zero_or_one (w.edges.countP fun e => decide (e ≤ p)) with h | h <;>
    simp [Nat.add_mod, h]

theorem Capture.wf_wave {cap : Capture} (h : cap.wf = true) (c : Channel) :
    (cap.wave.get c).wf cap.len = true := by
  simp only [Capture.wf, Bool.and_eq_true] at h
  obtain ⟨⟨⟨⟨-, hclk⟩, hdout⟩, hdin⟩, hen⟩ := h
  cases c <;> assumption

theorem State.FirstAfter.level {s : State} {c : Channel} {t : Sample} (h : s.FirstAfter c t)
    (hwf : s.cap.wf = true) : (s.cap.wave.get c).levelAt t = !s.levelOf c :=
  Waveform.levelAt_next (Capture.wf_wave hwf c) h.1 h.2.1 h.2.2

end Sys2Proof.Machine
end

section
/-! Every labelled line keeps the invariant, one lemma for each line: those of `RUN`, `SETUP`,
`RESYNC` and `RACE_CHECK`. -/

namespace Sys2Proof.Machine

open Sys2Proof

/-! ## Every line keeps the invariant -/

/-- Wherever the line leaves control, the invariant holds. -/
def Line.Keeps (s : State) : Line → Prop
  | .silent t => t.Inv
  | .operation c after => ∀ t, proceed (execCode c s) after = .next t → t.Inv

section
variable {s u : State} {l : Label} {stack : List Point} {xs ys : List Field}

theorem State.InLine.performed (h : s.InLine l stack) (hp : s.Performed xs u) :
    u.runState = .running ∧ s.Mid l stack xs u := by
  have hrun : u.runState = .running := by
    have hr := h.run
    rw [hp.runState]
    cases hs : s.runState <;> simp [State.inRun, hs] at hr <;> rfl
  exact ⟨hrun, h, hp.same, by simp [State.inRun, hrun], hp.ctlp.trans h.ctlp⟩

theorem State.Stopped.not_running (h : s.Stopped u) : u.runState ≠ .running := by
  rcases h.stops with ⟨hr, -⟩ | ⟨hr, -⟩
  · simp [hr]
  · rintro hrun; simp [State.inRun, hrun] at hr

/-- An operation and the rest of its line: only what was performed goes on. -/
theorem State.InLine.proceed (h : s.InLine l stack) {o : Out} {after : State → Out}
    {Q : State → Prop} (hres : ∀ u, o = .next u → s.Result xs Q u)
    (hafter : ∀ u, s.Mid l stack xs u → Q u → ∀ t, after u = .next t → t.Inv) {t : State}
    (ht : Machine.proceed o after = .next t) : t.Inv := by
  cases ho : o with
  | fault r => rw [ho] at ht; cases ht
  | refused r => rw [ho] at ht; cases ht
  | next u =>
    rw [ho, Machine.proceed] at ht
    rcases hres u ho with hstop | ⟨hperf, hq⟩
    · rw [if_neg hstop.not_running] at ht
      cases ht
      exact h.stopped hstop
    · obtain ⟨hrun, hmid⟩ := h.performed hperf
      rw [if_pos hrun] at ht
      exact hafter u hmid hq t ht

theorem State.InLine.operate (h : s.InLine l stack) {c : Code} {f : State → State}
    {Q : State → Prop} (hres : ∀ u, execCode c s = .next u → s.Result xs Q u)
    (hafter : ∀ u, s.Mid l stack xs u → Q u → (f u).Inv) : (operate c f).Keeps s :=
  fun _ ht => h.proceed hres (fun u hmid hq t ht => by cases ht; exact hafter u hmid hq) ht

/-- Where the line has changed nothing, the invariant holds in the midst of it. -/
theorem State.Mid.inLine (h : s.Mid l stack [] u) : u.InLine l stack := by
  refine ⟨h.start.finish (known := fun c => c.at l) h.same h.run h.ctlp h.start.stackOk
    h.start.depth (fun _ => h.start.meets) (gives_self l) trivial fun k hk c hc hat => ?_,
    h.run, h.ctlp⟩
  exact h.same.meets (fun _ _ => List.not_mem_nil)
    (h.start.inv.meetsBelow h.start.ctlp k hk c hc hat)

theorem State.Mid.step {v : State} (h : s.Mid l stack xs u) (hv : u.SameBut ys v)
    (hr : v.runState = u.runState) (hl : v.ctlp = u.ctlp) : s.Mid l stack (ys ++ xs) v :=
  ⟨h.start, h.same.trans hv, by rw [State.inRun, hr]; exact h.run, hl.trans h.ctlp⟩

theorem State.Mid.setReg (h : s.Mid l stack xs u) (r : SampleReg) (v : Sample) :
    s.Mid l stack (.reg r :: xs) (u.setReg r v) :=
  h.step (.setReg u r v) (by simp) (by simp)

theorem State.Mid.record (h : s.Mid l stack xs u) (c : Cause) : s.Mid l stack xs (u.record c) :=
  h.step (.unread u _ _ c _ _ _) rfl rfl

/-- A claim of `l` that reads nothing of what the line has changed. -/
theorem State.Mid.meets (h : s.Mid l stack xs u) {c : Claim} (hc : c.at l = true)
    (hx : ∀ f ∈ c.reads, f ∉ xs) : u.Meets c :=
  h.same.meets hx (h.start.meets hc)

/-- Both branches of a line whose claims hold already. -/
theorem State.Mid.gotoEither (h : s.Mid l stack xs u) {p : Prop} [Decidable p] {m n : Label}
    (hm : gotoOk l m xs [] = true) (hn : gotoOk l n xs [] = true) :
    (u.goto (if p then m else n)).Inv := by
  split
  · exact h.goto m [] hm trivial
  · exact h.goto n [] hn trivial

/-! ### The cursors -/

theorem State.Mid.present (h : s.Mid l stack xs u) (c : Channel) : u.present c = s.present c := by
  rw [State.present, h.same.cfgl, State.present]

theorem State.Mid.pos_eq (h : s.Mid l stack xs u) (c : Channel) (hc : .pos c ∉ xs) :
    u.pos.get c = s.pos.get c :=
  h.same.fields (.pos c) hc

/-- The next transition of a channel whose cursor has not moved. -/
theorem State.Mid.firstAfter (h : s.Mid l stack xs u) {c : Channel} {t : Sample}
    (hc : .pos c ∉ xs) (hfirst : s.FirstAfter c t) : u.FirstAfter c t := by
  rwa [State.FirstAfter, h.same.cap, h.pos_eq c hc]

/-- The enable cursor at its next transition. -/
theorem State.Mid.enableAdvanced (h : s.Mid l stack [.pos .en] u)
    (hnext : s.NextAvailable .en (u.pos.get .en)) :
    u.Meets .clear ∧ u.Meets .behind ∧ u.levelOf .en = !s.levelOf .en := by
  have hfirst := hnext.firstAfter
  have hclear : s.Meets .clear := h.start.meets rfl
  have hclk : u.pos.clk = s.pos.clk := h.pos_eq .clk (by decide)
  refine ⟨fun he t ht hcross => ?_, fun he => ?_, ?_⟩
  · rw [h.present] at he
    rw [h.same.cap] at ht
    rw [hclk] at hcross
    exact hclear he t ht ⟨BitVec.lt_trans hfirst.2.1 hcross.1, hcross.2⟩
  · rw [h.present] at he
    rw [hclk]
    exact BitVec.not_le.mp fun hle => hclear he _ hfirst.1 ⟨hfirst.2.1, hle⟩
  · rw [State.levelOf, h.same.cap]
    exact hfirst.level h.start.inv.sound.capture

/-! ### `RUN` and `SETUP` -/

theorem run1_keeps (h : s.InLine .run1 stack) : (line .run1 s).Keeps s :=
  h.mid.call .run2 .su1 [] (by decide) trivial

theorem run2_keeps (h : s.InLine .run2 stack) : (line .run2 s).Keeps s :=
  h.mid.call .run3 .rs1 [] (by decide) trivial

theorem run3_keeps (h : s.InLine .run3 stack) : (line .run3 s).Keeps s :=
  h.mid.call .run4 .gw1 [] (by decide) trivial

theorem run4_keeps (h : s.InLine .run4 stack) : (line .run4 s).Keeps s :=
  h.mid.goto .run3 [] (by decide) trivial

theorem su1_keeps (h : s.InLine .su1 stack) : (line .su1 s).Keeps s :=
  (h.mid.step (.setMdir s (markerDirection s.cfgl)) rfl rfl).ret [.direction, .setup] (by decide)
    ⟨markerDirection_cases s.cfgl, rfl⟩

/-! ### `NEXT_ACTIVE_EDGE` and `ADV_ACTIVE_ENABLE` -/

/-- The line asks for the enable's level: control goes to `yes` where it is active. -/
theorem State.InLine.askEnable (h : s.InLine l stack) {yes no : Label}
    (hyes : gotoOk l yes [] [.active] = true) (hno : gotoOk l no [] [.inactive] = true) :
    (Machine.operate (opcWord 0x0B) fun t =>
      t.goto (if t.ansBit = t.enpol then yes else no)).Keeps s := by
  refine h.operate (fun _ => levelOp_result) fun u hmid hbit => ?_
  have hlevel : u.levelOf .en = u.ansBit := by
    rw [hbit, State.levelOf, hmid.same.cap, hmid.pos_eq .en List.not_mem_nil, State.levelOf]
  split
  case isTrue hact => exact hmid.goto yes _ hyes fun _ => hlevel.trans hact
  case isFalse hact => exact hmid.goto no _ hno fun _ => hlevel ▸ hact

/-- The enable cursor goes to the next transition, which ends the active level. -/
theorem State.InLine.leaveActive (h : s.InLine l stack) {m : Label} (hl : activeAt l = true)
    (hm : gotoOk l m [.pos .en] [.position, .clear, .inactive] = true) :
    (Machine.operate (opcWord 0x1B) fun t => t.goto m).Keeps s := by
  refine h.operate (fun _ => advEdgeOp_result) fun u hmid ⟨hpos, hnext⟩ => ?_
  obtain ⟨hclear, -, hlevel⟩ := hmid.enableAdvanced hnext
  refine hmid.goto m _ hm ⟨hpos (h.meets rfl), hclear, fun he => ?_⟩
  rw [hmid.present] at he
  have hactive : s.levelOf .en = s.enpol := h.meets (c := .active) hl he
  rw [hlevel, hactive, State.enpol, State.enpol, hmid.same.cfgl]
  exact Bool.not_ne_self _

/-- The enable cursor goes to the next transition, which ends the inactive level. -/
theorem State.Mid.becomesActive (h : s.Mid l stack [.pos .en] u)
    (hl : Claim.at .inactive l = true) (hpos : s.Meets .position → u.Meets .position)
    (hnext : s.NextAvailable .en (u.pos.get .en)) :
    [Claim.position, .clear, .active, .behind].Forall u.Meets := by
  obtain ⟨hclear, hbehind, hlevel⟩ := h.enableAdvanced hnext
  refine ⟨hpos (h.start.meets rfl), hclear, fun he => ?_, hbehind⟩
  rw [h.present] at he
  have hinactive : s.levelOf .en ≠ s.enpol := h.start.meets (c := .inactive) hl he
  rw [hlevel, State.enpol, h.same.cfgl, ← State.enpol]
  exact Bool.not_eq.mpr hinactive

theorem na1_keeps (h : s.InLine .na1 stack) : (line .na1 s).Keeps s :=
  h.askEnable (by decide) (by decide)

theorem na2_keeps (h : s.InLine .na2 stack) : (line .na2 s).Keeps s :=
  h.leaveActive rfl (by decide)

theorem na3_keeps (h : s.InLine .na3 stack) : (line .na3 s).Keeps s :=
  h.operate (fun _ => advEdgeOp_result) fun _ hmid ⟨hpos, hnext⟩ =>
    hmid.ret [.position, .clear, .active, .behind] (by decide) (hmid.becomesActive rfl hpos hnext)

theorem ae2n1_keeps (h : s.InLine .ae2n1 stack) : (line .ae2n1 s).Keeps s :=
  h.askEnable (by decide) (by decide)

theorem ae2n2_keeps (h : s.InLine .ae2n2 stack) : (line .ae2n2 s).Keeps s :=
  h.leaveActive rfl (by decide)

theorem ae2n3_keeps (h : s.InLine .ae2n3 stack) : (line .ae2n3 s).Keeps s :=
  h.operate (fun _ => advEdgeOp_result) fun _ hmid ⟨hpos, hnext⟩ =>
    hmid.goto .ae3 [.position, .clear, .active, .behind] (by decide)
      (hmid.becomesActive rfl hpos hnext)

theorem ae1_keeps (h : s.InLine .ae1 stack) : (line .ae1 s).Keeps s := by
  simp only [line]; split
  case isTrue he => exact h.mid.goto .ae2 [.enable] (by decide) he
  case isFalse he =>
    refine h.operate (fun _ => posOp_result) fun u hmid _ => ?_
    have hno : u.present .en ≠ true := by rwa [hmid.present]
    exact (hmid.setReg .cs _).ret [.written .cs, .active, .target, .aligned] (by decide)
      ⟨rfl, fun he => absurd he hno, fun he => absurd he hno, fun he => absurd he hno⟩

theorem ae2_keeps (h : s.InLine .ae2 stack) : (line .ae2 s).Keeps s := by
  change s.callNextActive.Inv
  unfold State.callNextActive; split
  case isTrue => exact h.mid.call .ae3 .na1 [] (by decide) trivial
  case isFalse hfull =>
    refine h.mid.goto .ae2n1 [.full] (by decide) ?_
    have hd := h.depth
    rw [h.ctlp, List.length_cons] at hfull
    change s.ctlp.tail.length = 3
    rw [h.ctlp, List.tail_cons]
    omega

/-- `CS` takes the position of the enable cursor. -/
theorem State.Mid.takeEnable (h : s.Mid l stack [] u) (hpos : u.ansPos = s.pos.get .en) :
    (u.take .cs).Meets .target := fun _ =>
  congrArg WorkReg.holding (hpos.trans (h.pos_eq .en List.not_mem_nil).symm)

theorem ae3_keeps (h : s.InLine .ae3 stack) : (line .ae3 s).Keeps s :=
  h.operate (fun _ => posOp_result) fun _ hmid hpos =>
    (hmid.setReg .cs _).goto .ae4 [.written .cs, .target] (by decide) ⟨rfl, hmid.takeEnable hpos⟩

/-- The clock cursor goes to the enable's, whose sample `CS` holds: what `AE.4` and `RS.6` do. -/
theorem State.Mid.reachEnable (h : s.Mid l stack [.pos .clk] u)
    (hpos : s.Meets .position → u.Meets .position)
    (hreach : s.pos.get .clk < (s.reg .cs).val → u.pos.get .clk = (s.reg .cs).val)
    (hbehind : Claim.at .behind l = true) (htarget : Claim.at .target l = true) :
    [Claim.position, .clear, .aligned].Forall u.Meets := by
  have hbehind : s.Meets .behind := h.start.meets hbehind
  have htarget : s.Meets .target := h.start.meets htarget
  have haligned : u.Meets .aligned := by
    intro he
    rw [h.present] at he
    have hcs : (s.reg .cs).val = s.pos.en := congrArg WorkReg.val (htarget he)
    rw [show u.pos.en = s.pos.en from h.pos_eq .en (by decide), ← hcs]
    exact hreach (hcs ▸ hbehind he)
  refine ⟨hpos (h.start.meets rfl), fun he t _ hcross => ?_, haligned⟩
  rw [haligned he] at hcross
  exact BitVec.not_le.mpr hcross.1 hcross.2

theorem ae4_keeps (h : s.InLine .ae4 stack) : (line .ae4 s).Keeps s :=
  h.operate (fun _ => advToOp_result (r := .cs)) fun _ hmid ⟨hpos, hreach⟩ =>
    hmid.ret [.position, .clear, .aligned] (by decide) (hmid.reachEnable hpos hreach rfl rfl)

/-! ### `RESYNC` -/

theorem rs1_keeps (h : s.InLine .rs1 stack) : (line .rs1 s).Keeps s :=
  h.mid.call .rs2 .ae1 [] (by decide) trivial

theorem rs2_keeps (h : s.InLine .rs2 stack) : (line .rs2 s).Keeps s :=
  h.operate (fun _ => levelOp_result) fun _ hmid _ => hmid.gotoEither (by decide) (by decide)

theorem rs3_keeps (h : s.InLine .rs3 stack) : (line .rs3 s).Keeps s := by
  refine h.operate (fun _ => emitErrorMarkerOp_result) fun u hmid _ => ?_
  have hrec := hmid.record .polarityMismatch
  dsimp only
  split
  case isTrue he =>
    exact withReg_ind (P := State.Inv) (hrec.inLine.stopped (.fault _ _)) fun v =>
      (hrec.setReg .es v).call .rs4 .na1 [.enable, .spanStart] (by decide) ⟨he, rfl⟩
  case isFalse he =>
    exact hrec.goto .rs7 [.noEnable] (by decide) (Bool.eq_false_iff.mpr he)

theorem rs4_keeps (h : s.InLine .rs4 stack) : (line .rs4 s).Keeps s :=
  h.operate (fun _ => posOp_result) fun _ hmid hpos =>
    (hmid.setReg .cs _).goto .rs5 [.written .cs, .written .es, .target] (by decide)
      ⟨rfl, hmid.meets (c := .spanStart) rfl (by decide), hmid.takeEnable hpos⟩

theorem rs5_keeps (h : s.InLine .rs5 stack) : (line .rs5 s).Keeps s :=
  h.operate (fun _ => emitErrorOp_result) fun _ hmid _ => hmid.goto .rs6 [] (by decide) trivial

theorem rs6_keeps (h : s.InLine .rs6 stack) : (line .rs6 s).Keeps s :=
  h.operate (fun _ => advToOp_result (r := .cs)) fun _ hmid ⟨hpos, hreach⟩ =>
    hmid.goto .rs2 [.position, .clear, .aligned] (by decide)
      (hmid.reachEnable hpos hreach rfl rfl)

/-- At `RS.7` and `RS.8` no claim about the enable channel is open. -/
theorem State.Mid.noEnable (h : s.Mid l stack xs u) (hl : Claim.at .noEnable l = true) :
    u.present .en ≠ true := by
  rw [h.present]
  exact Bool.eq_false_iff.mp (h.start.meets (c := .noEnable) hl)

theorem rs7_keeps (h : s.InLine .rs7 stack) : (line .rs7 s).Keeps s :=
  h.operate (fun _ => advEdgeOp_result) fun _ hmid ⟨hpos, _⟩ =>
    hmid.goto .rs8 [.position, .clear] (by decide)
      ⟨hpos (h.meets rfl), fun he => absurd he (hmid.noEnable rfl)⟩

theorem rs8_keeps (h : s.InLine .rs8 stack) : (line .rs8 s).Keeps s := by
  refine h.operate (fun _ => posOp_result) fun u hmid _ => ?_
  have hno := hmid.noEnable rfl
  exact (hmid.setReg .cs _).goto .rs9 [.written .cs, .active, .target, .aligned] (by decide)
    ⟨rfl, fun he => absurd he hno, fun he => absurd he hno, fun he => absurd he hno⟩

theorem rs9_keeps (h : s.InLine .rs9 stack) : (line .rs9 s).Keeps s :=
  h.operate (fun _ => emitStartOp_result) fun _ hmid _ => hmid.ret [] (by decide) trivial

/-! ### `RACE_CHECK` -/

theorem rc1_keeps (h : s.InLine .rc1 stack) : (line .rc1 s).Keeps s := by
  simp only [line]; split
  case isTrue he => exact h.mid.goto .rc2 [.enable] (by decide) he
  case isFalse he =>
    exact (h.mid.step (.setRt s false) rfl rfl).ret [.toggle, .advanceUnless, .toggleEdgeIf]
      (by decide) ⟨nofun, fun h => absurd h he, fun h => absurd h he⟩

theorem rc2_keeps (h : s.InLine .rc2 stack) : (line .rc2 s).Keeps s :=
  h.operate (fun _ => hasMoreOp_result) fun _ hmid _ => hmid.gotoEither (by decide) (by decide)

theorem rc3_keeps (h : s.InLine .rc3 stack) : (line .rc3 s).Keeps s :=
  h.operate (fun _ => levelOp_result) fun _ hmid _ => hmid.gotoEither (by decide) (by decide)

theorem rc4_keeps (h : s.InLine .rc4 stack) : (line .rc4 s).Keeps s :=
  h.operate (fun _ => hasMoreOp_result) fun _ hmid _ => hmid.gotoEither (by decide) (by decide)

/-- `RS` takes the enable's next transition, as `RC.5` and `RC.9` find it. -/
theorem State.Mid.takeToggle (h : s.Mid l stack [] u) (hnext : s.NextAvailable .en u.ansPos) :
    (u.take .rs).Meets .toggleEdge :=
  fun _ => h.firstAfter List.not_mem_nil hnext.firstAfter

theorem rc5_keeps (h : s.InLine .rc5 stack) : (line .rc5 s).Keeps s :=
  h.operate (fun _ => nextEdgeOp_result) fun _ hmid hnext =>
    (hmid.setReg .rs _).goto .rc6 [.toggle, .written .rs, .toggleEdge] (by decide)
      ⟨fun _ => ⟨rfl, hmid.meets (c := .enable) rfl (by decide)⟩, rfl, hmid.takeToggle hnext⟩

theorem rc6_keeps (h : s.InLine .rc6 stack) : (line .rc6 s).Keeps s := by
  refine h.operate (fun _ => wouldCrossOp_result (r := .rs)) fun u hmid _ => ?_
  split
  · exact hmid.goto .rc7 [] (by decide) trivial
  · exact (hmid.step (.setRt u true) rfl rfl).goto .rc10 [.toggle, .toggled] (by decide)
      ⟨fun _ => ⟨hmid.meets (c := .written .rs) rfl (by decide),
        hmid.meets (c := .enable) rfl (by decide)⟩, rfl⟩

theorem rc7_keeps (h : s.InLine .rc7 stack) : (line .rc7 s).Keeps s :=
  h.operate (fun _ => nextEdgeOp_result) fun _ hmid hnext =>
    (hmid.setReg .rn _).goto .rc8 [.written .rn, .nextClock] (by decide)
      ⟨rfl, fun _ => hmid.firstAfter List.not_mem_nil hnext.firstAfter⟩

theorem rc8_keeps (h : s.InLine .rc8 stack) : (line .rc8 s).Keeps s := by
  refine h.operate (fun _ => wouldCrossOp_result (r := .rn)) fun u hmid hno => ?_
  split
  case isTrue => exact hmid.goto .rc9 [] (by decide) trivial
  case isFalse hbit =>
    have hadvance : s.Meets .advance := fun he =>
      ⟨s.rn.val, h.meets (c := .nextClock) rfl he, hno (Bool.eq_false_iff.mpr hbit)⟩
    have hadvance' : u.Meets .advance := hmid.same.meets (by decide) hadvance
    exact (hmid.step (.setRt u false) rfl rfl).ret [.toggle, .advanceUnless, .toggleEdgeIf]
      (by decide) ⟨nofun, fun he _ => hadvance' he, nofun⟩

theorem rc9_keeps (h : s.InLine .rc9 stack) : (line .rc9 s).Keeps s :=
  h.operate (fun _ => nextEdgeOp_result) fun _ hmid hnext =>
    ((hmid.setReg .rs _).step (.setRt _ true) rfl rfl).goto .rc10
      [.toggle, .written .rs, .toggled, .toggleEdge] (by decide)
      ⟨fun _ => ⟨rfl, hmid.meets (c := .enable) rfl (by decide)⟩, rfl, rfl, hmid.takeToggle hnext⟩

/-- `RACE_CHECK` returns with its answer "toggle". -/
theorem State.Mid.returnToggle (h : s.Mid .rc10 stack [] u) : u.ret.Inv := by
  have htoggled : u.rt = true := h.meets (c := .toggled) rfl (by decide)
  have hedge : u.Meets .toggleEdge := h.meets rfl (by decide)
  exact h.ret [.advanceUnless, .toggleEdgeIf] (by decide)
    ⟨fun _ (hrt : u.rt = false) => absurd htoggled (by simp [hrt]), fun he _ => hedge he⟩

theorem rc10_keeps (h : s.InLine .rc10 stack) : (line .rc10 s).Keeps s := by
  simp only [line]; split
  · exact h.operate (fun _ => emitDisableOp_result (r := .rs)) fun _ hmid _ => hmid.returnToggle
  · exact h.mid.returnToggle

end

end Sys2Proof.Machine
end

section
/-! The lines of `SAMPLE_DATA` and `GET_WORD` keep the invariant: the bits of a word are counted. -/

namespace Sys2Proof.Machine

open Sys2Proof

section
variable {s u : State} {l : Label} {stack : List Point} {xs : List Field}

/-! ### `SAMPLE_DATA` -/

theorem State.Sound.N_bounds (h : s.Sound) : 1 ≤ s.N ∧ s.N ≤ 64 := by
  have hlegal := h.legal
  simp only [cfgLegal, Bool.and_eq_true, decide_eq_true_eq] at hlegal
  exact hlegal.1

theorem State.Mid.N_eq (h : s.Mid l stack xs u) : u.N = s.N := by
  rw [State.N, h.same.cfgl, State.N]

/-- A change of one accumulator that keeps it in bounds. -/
theorem State.Mid.accInBounds {a : AccSel} (h : s.Mid l stack [.acc a] u)
    (hr : (u.acc a).r.toNat ≤ s.N) (hv : (u.acc a).v.toNat < 2 ^ s.N) :
    u.Meets .remaining ∧ u.Meets .width := by
  have hremaining : s.Meets .remaining := h.start.meets rfl
  have hwidth : s.Meets .width := h.start.meets rfl
  refine ⟨fun b => ?_, fun b => ?_⟩ <;> rw [h.N_eq] <;> by_cases hb : b = a
  · rwa [hb]
  · rw [show u.acc b = s.acc b from h.same.fields (.acc b) (by simp [hb])]
    exact hremaining b
  · rwa [hb]
  · rw [show u.acc b = s.acc b from h.same.fields (.acc b) (by simp [hb])]
    exact hwidth b

theorem insertAt_lt {order : ShiftOrder} {n r : Nat} (h₁ : 1 ≤ r) (h₂ : r ≤ n) :
    insertAt order n r < n := by
  cases order <;> simp only [insertAt] <;> omega

theorem Accumulator.addBit_r {x : Accumulator} {order : ShiftOrder} {n : Nat} {b : Level}
    (h : x.r ≠ 0#7) : (x.addBit order n b).r.toNat + 1 = x.r.toNat := by
  simp only [Accumulator.addBit]
  bv_omega

theorem Accumulator.addBit_v {x : Accumulator} {order : ShiftOrder} {n : Nat} {b : Level}
    (hr : x.r ≠ 0#7) (hn : x.r.toNat ≤ n) (hv : x.v.toNat < 2 ^ n) :
    (x.addBit order n b).v.toNat < 2 ^ n := by
  have hk : insertAt order n x.r.toNat < n := insertAt_lt (by bv_omega) hn
  have hbit : ((if b then 1#64 else 0#64) <<< insertAt order n x.r.toNat).toNat < 2 ^ n := by
    rw [BitVec.toNat_shiftLeft, Nat.shiftLeft_eq]
    refine Nat.lt_of_le_of_lt (Nat.mod_le _ _) ?_
    have hpow : 2 ^ insertAt order n x.r.toNat < 2 ^ n := Nat.pow_lt_pow_right (by decide) hk
    cases b <;> simp [hpow]
  rw [Accumulator.addBit, BitVec.toNat_or]
  exact Nat.or_lt_two_pow hv hbit

theorem exec_accAddBit (a : AccSel) (b : Level) (s : State) :
    ∃ code, exec (.accAddBit a b) s = accAddBitOp a b code s := by
  cases a <;> cases b <;> exact ⟨_, rfl⟩

/-- One bit more in accumulator `a`, after `p` and before `q`. -/
theorem State.Mid.bitAdded {a : AccSel} {p q : Progress} {b : Level}
    (h : s.Mid l stack [.acc a] u) (hne : (s.acc a).r ≠ 0#7)
    (hacc : u.acc a = (s.acc a).addBit (cfgOrder s.cfgl) s.N b) (hp : progressAt l = some p)
    (hnoted : u.noted q = s.noted p)
    (hadded : ∀ b, u.added b q = s.added b p + if b = a then 1 else 0) :
    [Claim.remaining, .width, .counted q].Forall u.Meets := by
  have hr := Accumulator.addBit_r (order := cfgOrder s.cfgl) (n := s.N) (b := b) hne
  have hle : s.Meets .remaining := h.start.meets rfl
  have hlt : s.Meets .width := h.start.meets rfl
  have hle := hle a
  have hbounds := h.accInBounds (by rw [hacc]; omega)
    (by rw [hacc]; exact Accumulator.addBit_v hne hle (hlt a))
  obtain ⟨hcount, hleft⟩ : s.Counted p :=
    h.start.meets (c := .counted p) (beq_iff_eq.mpr hp)
  refine ⟨hbounds.1, hbounds.2, ?_, fun d hd => ?_⟩
  · rw [hnoted, ← hcount]
    exact congrArg List.length (h.same.fields .mb (by simp))
  · rw [h.present] at hd
    have hd := hleft d hd
    rw [hadded, h.N_eq]
    by_cases hda : d = a
    · subst hda
      rw [if_pos rfl, hacc]
      omega
    · rw [if_neg hda, show u.acc d = s.acc d from h.same.fields (.acc d) (by simp [hda])]
      exact hd

/-- `SD.3` and `SD.5`: the level of the channel goes into its accumulator. -/
theorem State.InLine.addLevel (h : s.InLine l stack) {o : Out} {a : AccSel} {m : Label}
    {p q : Progress} {Q : State → Prop} (hres : ∀ u, o = .next u → s.Result [] Q u)
    (hp : progressAt l = some p)
    (hok : gotoOk l m [.acc a] [.remaining, .width, .counted q] = true)
    (hnoted : ∀ s : State, s.noted q = s.noted p)
    (hadded : ∀ (s : State) b, s.added b q = s.added b p + if b = a then 1 else 0) {t : State}
    (ht : Machine.proceed o (Machine.addLevel a m) = .next t) : t.Inv := by
  refine h.proceed hres (fun u hmid _ t ht => ?_) ht
  obtain ⟨code, hexec⟩ := exec_accAddBit a u.ansBit u
  rw [Machine.addLevel, hexec] at ht
  refine hmid.inLine.proceed (fun _ => accAddBitOp_result) (fun v hmid' hv t ht => ?_) ht
  obtain ⟨hne, hacc⟩ := hv
  cases ht
  have hi : v.i = u.i := hmid'.same.fields .i (by simp)
  have hedge : v.edge = u.edge := by rw [State.edge, hmid'.same.cfgl, State.edge]
  have hsame : v.noted p = u.noted p := by
    cases p <;> simp only [State.noted, hi, hedge, hmid'.N_eq]
  refine hmid'.goto m _ hok (hmid'.bitAdded hne hacc hp ((hnoted v).trans hsame) fun b => ?_)
  rw [hadded]
  congr 1
  cases p <;> simp only [State.added, hi, hsame]

theorem sd1_keeps (h : s.InLine .sd1 stack) : (line .sd1 s).Keeps s :=
  h.operate (fun _ => posOp_result) fun _ hmid _ =>
    (hmid.setReg .cs _).goto .sd2 [.written .cs] (by decide) rfl

theorem sd2_keeps (h : s.InLine .sd2 stack) : (line .sd2 s).Keeps s := by
  simp only [line]; split
  · exact h.operate (fun _ => advToOp_result (r := .cs)) fun _ hmid ⟨hpos, _⟩ =>
      hmid.goto .sd3 [.position] (by decide) (hpos (h.meets rfl))
  · exact h.mid.goto .sd3 [] (by decide) trivial

theorem sd3_keeps (h : s.InLine .sd3 stack) : (line .sd3 s).Keeps s := by
  simp only [line]; split
  case isTrue =>
    refine fun t => h.addLevel (p := .bit) (q := .bitDout) (fun _ => levelOp_result) rfl
      (by decide) (fun _ => rfl) fun s b => ?_
    cases b <;> simp [State.added, State.noted]
  case isFalse hno =>
    obtain ⟨hcount, hleft⟩ : s.Counted .bit := h.meets (c := .counted .bit) rfl
    refine h.mid.goto .sd4 [.counted .bitDout] (by decide) ⟨hcount, fun a ha => ?_⟩
    cases a
    · exact absurd ha hno
    · exact hleft .din ha

theorem sd4_keeps (h : s.InLine .sd4 stack) : (line .sd4 s).Keeps s := by
  simp only [line]; split
  · exact h.operate (fun _ => advToOp_result (r := .cs)) fun _ hmid ⟨hpos, _⟩ =>
      hmid.goto .sd5 [.position] (by decide) (hpos (h.meets rfl))
  · exact h.mid.goto .sd5 [] (by decide) trivial

theorem sd5_keeps (h : s.InLine .sd5 stack) : (line .sd5 s).Keeps s := by
  simp only [line]; split
  case isTrue =>
    refine fun t => h.addLevel (p := .bitDout) (q := .bitBoth) (fun _ => levelOp_result) rfl
      (by decide) (fun _ => rfl) fun s b => ?_
    cases b <;> simp [State.added]
  case isFalse hno =>
    obtain ⟨hcount, hleft⟩ : s.Counted .bitDout := h.meets (c := .counted .bitDout) rfl
    refine h.mid.goto .sd6 [.counted .bitBoth] (by decide) ⟨hcount, fun a ha => ?_⟩
    cases a
    · exact hleft .dout ha
    · exact absurd ha hno

/-- After `SD.6` the bit is counted, as an iteration of `EDGE` `Leading` or `Trailing` counts it. -/
theorem State.Counted.sampled {p : Progress} {t : Sample} (h : s.Counted .bitBoth)
    (hp : ∀ a, s.noted p = s.i.toNat + 1 ∧ s.added a p = s.i.toNat + 1) :
    ({ s with mb := s.mb ++ [t] } : State).Counted p := by
  obtain ⟨hcount, hleft⟩ := h
  refine ⟨?_, fun a ha => ?_⟩
  · change (s.mb ++ [t]).length = s.noted p
    rw [List.length_append, hcount, (hp .dout).1]
    rfl
  · change (s.acc a).r.toNat + s.added a p = s.N
    rw [(hp a).2]
    exact hleft a ha

theorem sd6_keeps (h : s.InLine .sd6 stack) : (line .sd6 s).Keeps s := by
  change s.noteSample.Inv
  unfold State.noteSample; split
  case isFalse => exact h.stopped (.fault s _)
  case isTrue hroom =>
    refine withReg_ind (P := State.Inv) (h.stopped (.fault s _)) fun t => ?_
    have hcounted : s.Counted .bitBoth := h.meets (c := .counted .bitBoth) rfl
    have hmarkers : (s.mb ++ [t]).length ≤ 64 := by simpa using hroom
    obtain ⟨hlead, htrail⟩ : s.Meets .sampleCall := h.meets rfl
    obtain ⟨m, rest, rfl, hm⟩ := h.caller (by decide)
    rw [h.ctlp] at hlead htrail
    have hmid := h.mid.step (.setMb s (s.mb ++ [t])) rfl rfl
    rcases (show m = .gw10 ∨ m = .gw4next by simpa [placeOf, labelProc] using mayReturnTo_cases hm)
      with rfl | rfl
    · have hedge := hlead rfl
      have hafter := hcounted.sampled (p := .edge) (t := t) fun a => by
        simp [State.added, State.noted, hedge]
      exact hmid.retTo [.markers, .counted .edge] (by decide) ⟨hmarkers, hafter⟩
    · have hafter := hcounted.sampled (p := .next) (t := t) fun a => by
        simp [State.added, State.noted]
      exact hmid.retTo [.markers, .counted .next] (by decide) ⟨hmarkers, hafter⟩

/-! ### `GET_WORD` -/

/-- `call RACE_CHECK` from before the line `f`, which is where the bits are counted. -/
theorem State.InLine.callRace (h : s.InLine l stack) {f : Label} {p : Progress} {e : Bool}
    (hf : progressAt f = some p) (he : e = !(f == .gw12)) (hcounted : s.Counted p)
    (hok : callOk l f .rc1 [.raceEmit] [.raceCall, .countedCaller] = true) :
    ((s.goto f).enterRace e).Inv := by
  refine (h.mid.step (.setRaceEmit s e) rfl rfl).call f .rc1 [.raceCall, .countedCaller] hok
    ⟨?_, ?_⟩
  · rintro m hm
    cases hm
    exact he
  · rintro m hm - q hq
    cases hm
    cases hf.symm.trans hq
    exact hcounted

/-- The bit loop is left with all bits counted. -/
theorem State.Mid.toMarkers (h : s.Mid l stack xs u) (gained : List Claim)
    (hok : gotoOk l .gw18 (.k :: xs) (.counted .all :: .emitted :: .deferredEdge :: gained) = true)
    (hcounted : u.Counted .all) (hdeferred : u.Meets .deferredEdge)
    (hnew : gained.Forall ({ u with k := 0#7 } : State).Meets) : u.toMarkers.Inv := by
  refine (h.step (.setK u 0#7) rfl rfl).goto .gw18 _ hok ?_
  simp only [List.forall_cons]
  exact ⟨hcounted, Nat.zero_le _, hdeferred, hnew⟩

/-- The same bits, counted under another name. -/
theorem State.Counted.of_noted {p : Progress} (h : s.Counted p) (hp : ∀ a, s.added a p = s.noted p)
    {q : Progress} (hq : ∀ a, s.added a q = s.noted q) (heq : s.noted q = s.noted p) :
    s.Counted q := by
  obtain ⟨hcount, hleft⟩ := h
  refine ⟨hcount.trans heq.symm, fun a ha => ?_⟩
  rw [hq, heq, ← hp a]
  exact hleft a ha

/-- The loop at `GW.4` goes to index `n`, or ends, with `n` bits counted. -/
theorem State.InLine.loopAt (h : s.InLine l stack) {p : Progress} {n : Nat}
    (hl : l = .gw4 ∨ l = .gw4next) (hcounted : s.Counted p)
    (hadded : ∀ a, s.added a p = s.noted p) (hnoted : s.noted p = n) (hn : n ≤ s.N)
    (hfirst : n ≠ 0 → s.fs.written = true) : (s.loopAt n).Inv := by
  obtain ⟨hpos, hN⟩ := h.inv.sound.N_bounds
  have hfresh : s.nr = false := h.meets (c := .fresh) (by rcases hl with rfl | rfl <;> rfl)
  have hloop : gotoOk l .gw5 [.i] [.index, .firstLater, .counted .bit] = true := by
    rcases hl with rfl | rfl <;> decide
  have hleave : gotoOk l .gw18 [.k] [.counted .all, .emitted, .deferredEdge, .first] = true := by
    rcases hl with rfl | rfl <;> decide
  unfold State.loopAt; split
  case isTrue hlt =>
    have hi : (BitVec.ofNat 7 n).toNat = n := by
      rw [BitVec.toNat_ofNat]; exact Nat.mod_eq_of_lt (by omega)
    obtain ⟨hcount, hleft⟩ := hcounted
    refine (h.mid.step (.setI s (BitVec.ofNat 7 n)) rfl rfl).goto .gw5 _ hloop
      ⟨Nat.lt_of_le_of_lt hi.le hlt, fun hne => hfirst fun hzero => hne (hzero ▸ rfl),
        (hcount.trans hnoted).trans hi.symm, fun a ha => ?_⟩
    have hd := hleft a ha
    rwa [hadded, hnoted, ← hi] at hd
  case isFalse hge =>
    have hall : s.N = s.noted p := by omega
    exact h.mid.toMarkers [.first] hleave (hcounted.of_noted hadded (fun _ => rfl) hall)
      (fun _ hnr => absurd hfresh (by simp [hnr])) (hfirst (by omega))

/-- The clock cursor crosses the edge that a race check has allowed. -/
theorem State.Mid.crossEdge (h : s.Mid l stack [.pos .clk] u) (hl : Claim.at .advance l = true)
    (hpos : s.Meets .position → u.Meets .position)
    (hnext : s.NextAvailable .clk (u.pos.get .clk)) :
    [Claim.position, .clear].Forall u.Meets := by
  refine ⟨hpos (h.start.meets rfl), fun he t ht hcross => ?_⟩
  rw [h.present] at he
  rw [h.same.cap] at ht
  rw [show u.pos.en = s.pos.en from h.pos_eq .en (by decide)] at hcross
  obtain ⟨r, hr, hclear⟩ := (h.start.meets hl : s.Meets .advance) he
  rw [hr.unique hnext.firstAfter] at hclear
  exact hclear t ht hcross

/-- Without a toggle the clock may go on. -/
theorem State.InLine.mayAdvance (h : s.InLine l stack) (hl : Claim.at .advanceUnless l = true)
    (hrt : ¬ s.rt = true) : s.Meets .advance :=
  fun he => h.meets (c := .advanceUnless) hl he (Bool.eq_false_iff.mpr hrt)

theorem gw1_keeps (h : s.InLine .gw1 stack) : (line .gw1 s).Keeps s :=
  h.operate (fun _ => pollOp_result) fun _ hmid _ => hmid.goto .gw2 [] (by decide) trivial

theorem gw2_keeps (h : s.InLine .gw2 stack) : (line .gw2 s).Keeps s := by
  refine h.operate (fun _ => accResetOp_result (a := .dout)) fun u hmid hacc => ?_
  obtain ⟨hremaining, hwidth⟩ := hmid.accInBounds (by rw [hacc]; exact Nat.le_refl _)
    (by rw [hacc]; exact Nat.two_pow_pos _)
  refine hmid.goto .gw3 [.remaining, .width, .firstReset] (by decide) ⟨hremaining, hwidth, ?_⟩
  change (u.acc .dout).r = cfgN u.cfgl
  rw [hacc, hmid.same.cfgl]

theorem gw3_keeps (h : s.InLine .gw3 stack) : (line .gw3 s).Keeps s := by
  refine h.operate (fun _ => accResetOp_result (a := .din)) fun u hmid hacc => ?_
  obtain ⟨hremaining, hwidth⟩ := hmid.accInBounds (by rw [hacc]; exact Nat.le_refl _)
    (by rw [hacc]; exact Nat.two_pow_pos _)
  have hfull (a : AccSel) : (u.acc a).r = cfgN u.cfgl := by
    cases a
    · exact hmid.meets (c := .firstReset) rfl (by decide)
    · rw [hacc, hmid.same.cfgl]
  exact ((hmid.step (.setNr u false) rfl rfl).step (.setMb _ []) rfl rfl).goto .gw4
    [.remaining, .width, .markers, .deferred, .fresh, .counted .zero] (by decide)
    ⟨hremaining, hwidth, Nat.zero_le _, nofun, rfl, rfl, fun a _ => congrArg BitVec.toNat (hfull a)⟩

theorem gw4_keeps (h : s.InLine .gw4 stack) : (line .gw4 s).Keeps s :=
  h.loopAt (p := .zero) (.inl rfl) (h.meets (c := .counted .zero) rfl) (fun _ => rfl) rfl
    (Nat.zero_le _) (fun hne => absurd rfl hne)

theorem gw5_keeps (h : s.InLine .gw5 stack) : (line .gw5 s).Keeps s :=
  h.callRace rfl rfl (h.meets (c := .counted .bit) rfl) (by decide)

theorem gw6_keeps (h : s.InLine .gw6 stack) : (line .gw6 s).Keeps s := by
  simp only [line]; split
  case isTrue => exact (h.mid.record _).call .gwRet .rs1 [] (by decide) trivial
  case isFalse hrt => exact h.mid.goto .gw7 [.advance] (by decide) (h.mayAdvance rfl hrt)

theorem gw7_keeps (h : s.InLine .gw7 stack) : (line .gw7 s).Keeps s :=
  h.operate (fun _ => advEdgeOp_result) fun _ hmid ⟨hpos, hnext⟩ =>
    hmid.goto .gw8 [.position, .clear] (by decide) (hmid.crossEdge rfl hpos hnext)

theorem gw8_keeps (h : s.InLine .gw8 stack) : (line .gw8 s).Keeps s := by
  simp only [line]; split
  case isTrue =>
    exact h.operate (fun _ => posOp_result) fun _ hmid _ =>
      (hmid.setReg .fs _).goto .gw9 [.first] (by decide) rfl
  case isFalse hi =>
    exact h.mid.goto .gw9 [.first] (by decide) (h.meets (c := .firstLater) rfl hi)

theorem gw9_keeps (h : s.InLine .gw9 stack) : (line .gw9 s).Keeps s := by
  have hcounted : s.Counted .bit := h.meets (c := .counted .bit) rfl
  simp only [line]; split
  case isTrue hedge =>
    exact h.mid.call .gw10 .sd1 [.sampleCall] (by decide) ⟨fun _ => hedge, nofun⟩
  case isFalse hedge =>
    exact h.mid.goto .gw10 [.counted .edge] (by decide)
      (hcounted.of_noted (fun _ => rfl) (fun _ => rfl) (by simp [State.noted, hedge]))

theorem gw10_keeps (h : s.InLine .gw10 stack) : (line .gw10 s).Keeps s := by
  simp only [line]; split
  case isTrue hlast => exact h.mid.goto .gw11 [.lastBit] (by decide) hlast
  case isFalse => exact h.mid.goto .gw14 [] (by decide) trivial

theorem gw11_keeps (h : s.InLine .gw11 stack) : (line .gw11 s).Keeps s :=
  h.callRace rfl rfl (h.meets (c := .counted .edge) rfl) (by decide)

/-- At the last bit of a word sampled at leading edges, all bits are counted. -/
theorem State.Counted.all_of_lastBit (h : s.Counted .edge) (hlast : s.Meets .lastBit) :
    s.Counted .all := by
  obtain ⟨hi, hedge⟩ := hlast
  exact h.of_noted (fun _ => rfl) (fun _ => rfl) (by simp [State.noted, hedge, hi])

theorem gw12_keeps (h : s.InLine .gw12 stack) : (line .gw12 s).Keeps s := by
  simp only [line]; split
  case isTrue hrt =>
    obtain ⟨hwritten, hen⟩ : s.rs.written = true ∧ s.present .en = true :=
      h.meets (c := .toggle) rfl hrt
    have hedge : s.Meets .toggleEdgeIf := h.meets rfl
    rw [withReg_written (r := .rs) _ hwritten]
    have hall : s.Counted .all :=
      State.Counted.all_of_lastBit (h.meets (c := .counted .edge) rfl) (h.meets rfl)
    exact ((h.mid.step (.setNr s true) rfl rfl).setReg .ds s.rs.val).toMarkers [.deferred]
      (by decide) hall (fun he _ => hedge he hrt) (fun _ => ⟨rfl, hen⟩)
  case isFalse hrt => exact h.mid.goto .gw13 [.advance] (by decide) (h.mayAdvance rfl hrt)

theorem gw13_keeps (h : s.InLine .gw13 stack) : (line .gw13 s).Keeps s := by
  refine h.operate (fun _ => advEdgeOp_result) fun u hmid ⟨hpos, hnext⟩ => ?_
  have hfresh : u.nr = false := hmid.meets (c := .fresh) rfl (by decide)
  exact hmid.toMarkers [.position, .clear] (by decide)
    (State.Counted.all_of_lastBit (hmid.meets (c := .counted .edge) rfl (by decide))
      (hmid.meets rfl (by decide)))
    (fun _ (hnr : u.nr = true) => absurd hfresh (by simp [hnr])) (hmid.crossEdge rfl hpos hnext)

theorem gw14_keeps (h : s.InLine .gw14 stack) : (line .gw14 s).Keeps s :=
  h.callRace rfl rfl (h.meets (c := .counted .edge) rfl) (by decide)

theorem gw15_keeps (h : s.InLine .gw15 stack) : (line .gw15 s).Keeps s := by
  simp only [line]; split
  case isTrue => exact (h.mid.record _).call .gwRet .rs1 [] (by decide) trivial
  case isFalse hrt => exact h.mid.goto .gw16 [.advance] (by decide) (h.mayAdvance rfl hrt)

theorem gw16_keeps (h : s.InLine .gw16 stack) : (line .gw16 s).Keeps s :=
  h.operate (fun _ => advEdgeOp_result) fun _ hmid ⟨hpos, hnext⟩ =>
    hmid.goto .gw17 [.position, .clear] (by decide) (hmid.crossEdge rfl hpos hnext)

theorem gw17_keeps (h : s.InLine .gw17 stack) : (line .gw17 s).Keeps s := by
  have hcounted : s.Counted .edge := h.meets (c := .counted .edge) rfl
  simp only [line]; split
  case isTrue hedge =>
    exact h.mid.call .gw4next .sd1 [.sampleCall, .counted .bit] (by decide)
      ⟨⟨nofun, fun _ => hedge⟩,
        hcounted.of_noted (q := .bit) (fun _ => rfl) (fun _ => rfl)
          (by simp [State.noted, hedge])⟩
  case isFalse hedge =>
    have hlead : s.edge = .leading := by cases he : s.edge <;> simp_all
    exact h.mid.goto .gw4next [.counted .next] (by decide)
      (hcounted.of_noted (fun _ => rfl) (fun _ => rfl) (by simp [State.noted, hlead]))

theorem gw4next_keeps (h : s.InLine .gw4next stack) : (line .gw4next s).Keeps s :=
  h.loopAt (p := .next) (.inr rfl) (h.meets (c := .counted .next) rfl) (fun _ => rfl) rfl
    (Nat.succ_le_of_lt (h.meets (c := .index) rfl)) fun _ => h.meets (c := .first) rfl

theorem State.Mid.stay (h : s.Mid l stack xs u) (gained : List Claim)
    (hok : gotoOk l l xs gained = true) (hnew : gained.Forall u.Meets) : u.Inv := by
  have hself : u.goto l = u := by rw [State.goto, h.ctlp, List.tail_cons, ← h.ctlp]
  exact hself ▸ h.goto l gained hok hnew

theorem gw18_keeps (h : s.InLine .gw18 stack) : (line .gw18 s).Keeps s := by
  simp only [line]; split
  case isFalse => exact h.mid.goto .gw19 [] (by decide) trivial
  case isTrue =>
    have hcount : s.mb.length = s.N := (h.meets (c := .counted .all) rfl).1
    have hN := h.inv.sound.N_bounds.2
    have hnext (u : State) (hmid : s.Mid .gw18 stack [.k] u)
        (hk : s.k.toNat < s.mb.length ∧ u.k = s.k + 1) : u.Inv := by
      refine hmid.stay [.emitted] (by decide) ?_
      change u.k.toNat ≤ u.N
      rw [hmid.N_eq, hk.2]
      bv_omega
    rcases (h.meets (c := .direction) rfl : s.mdir = 0#2 ∨ s.mdir = 1#2) with hd | hd <;> rw [hd]
    · exact h.operate (fun _ => emitBitMarkerOp_result (kind := .up)) hnext
    · exact h.operate (fun _ => emitBitMarkerOp_result (kind := .down)) hnext

theorem gw19_keeps (h : s.InLine .gw19 stack) : (line .gw19 s).Keeps s := fun _ ht =>
  h.proceed (fun _ => posOp_result)
    (fun _ hmid _ _ ht => hmid.inLine.proceed (fun _ => emitResultOp_result)
      (fun _ hmid _ _ ht => by cases ht; exact hmid.goto .gw20 [] (by decide) trivial) ht) ht

theorem gw20_keeps (h : s.InLine .gw20 stack) : (line .gw20 s).Keeps s := by
  simp only [line]; split
  · exact h.operate (fun _ => emitDisableOp_result (r := .ds)) fun _ hmid _ =>
      (hmid.record _).call .gwRet .rs1 [] (by decide) trivial
  · exact h.mid.ret [] (by decide) trivial

theorem gwRet_keeps (h : s.InLine .gwRet stack) : (line .gwRet s).Keeps s :=
  h.mid.ret [] (by decide) trivial

/-- Every line keeps the invariant. -/
theorem line_keeps (h : s.InLine l stack) : (line l s).Keeps s := by
  cases l with
  | run1 => exact run1_keeps h
  | run2 => exact run2_keeps h
  | run3 => exact run3_keeps h
  | run4 => exact run4_keeps h
  | su1 => exact su1_keeps h
  | rs1 => exact rs1_keeps h
  | rs2 => exact rs2_keeps h
  | rs3 => exact rs3_keeps h
  | rs4 => exact rs4_keeps h
  | rs5 => exact rs5_keeps h
  | rs6 => exact rs6_keeps h
  | rs7 => exact rs7_keeps h
  | rs8 => exact rs8_keeps h
  | rs9 => exact rs9_keeps h
  | ae1 => exact ae1_keeps h
  | ae2 => exact ae2_keeps h
  | ae2n1 => exact ae2n1_keeps h
  | ae2n2 => exact ae2n2_keeps h
  | ae2n3 => exact ae2n3_keeps h
  | ae3 => exact ae3_keeps h
  | ae4 => exact ae4_keeps h
  | na1 => exact na1_keeps h
  | na2 => exact na2_keeps h
  | na3 => exact na3_keeps h
  | rc1 => exact rc1_keeps h
  | rc2 => exact rc2_keeps h
  | rc3 => exact rc3_keeps h
  | rc4 => exact rc4_keeps h
  | rc5 => exact rc5_keeps h
  | rc6 => exact rc6_keeps h
  | rc7 => exact rc7_keeps h
  | rc8 => exact rc8_keeps h
  | rc9 => exact rc9_keeps h
  | rc10 => exact rc10_keeps h
  | gw1 => exact gw1_keeps h
  | gw2 => exact gw2_keeps h
  | gw3 => exact gw3_keeps h
  | gw4 => exact gw4_keeps h
  | gw5 => exact gw5_keeps h
  | gw6 => exact gw6_keeps h
  | gw7 => exact gw7_keeps h
  | gw8 => exact gw8_keeps h
  | gw9 => exact gw9_keeps h
  | gw10 => exact gw10_keeps h
  | gw11 => exact gw11_keeps h
  | gw12 => exact gw12_keeps h
  | gw13 => exact gw13_keeps h
  | gw14 => exact gw14_keeps h
  | gw15 => exact gw15_keeps h
  | gw16 => exact gw16_keeps h
  | gw17 => exact gw17_keeps h
  | gw4next => exact gw4next_keeps h
  | gw18 => exact gw18_keeps h
  | gw19 => exact gw19_keeps h
  | gw20 => exact gw20_keeps h
  | gwRet => exact gwRet_keeps h
  | sd1 => exact sd1_keeps h
  | sd2 => exact sd2_keeps h
  | sd3 => exact sd3_keeps h
  | sd4 => exact sd4_keeps h
  | sd5 => exact sd5_keeps h
  | sd6 => exact sd6_keeps h

end

end Sys2Proof.Machine
end

section
/-! The decoder's step and the inputs of the environment keep the invariant, and the statements of
10_state.md. -/

namespace Sys2Proof.Machine

open Sys2Proof

/-! ## The decoder's step keeps the invariant -/

theorem State.Inv.ctlp_of_betweenRuns {s : State} (h : s.Inv) (hr : s.inRun = false) :
    s.ctlp = [] := by
  by_contra hne
  simp [h.sound.running.mpr hne] at hr

/-- Where control is, by the invariant: at a line of a run, or nowhere between runs. -/
theorem State.Inv.control {s : State} (h : s.Inv) :
    (s.inRun = false ∧ s.ctlp = []) ∨ ∃ l stack, s.InLine l stack := by
  cases hr : s.inRun with
  | false => exact .inl ⟨rfl, h.ctlp_of_betweenRuns hr⟩
  | true =>
    have hne := h.sound.running.mp hr
    have hok := h.sound.stack
    match hl : s.ctlp with
    | [] => exact absurd hl hne
    | .word c :: stack => rw [hl, stackOk_word] at hok; exact absurd hok Bool.false_ne_true
    | .line l :: stack => exact .inr ⟨l, stack, h, hr, hl⟩

theorem settle_keepsInv {s : State} (h : s.Inv) (n : Nat) : (settle n s).Inv := by
  induction n generalizing s with
  | zero => exact h
  | succ n ih =>
    by_cases hs : s.Settled
    · rwa [settle_of_settled hs]
    · unfold State.Settled at hs; push Not at hs
      obtain ⟨l, stack, t, hl, ht⟩ := hs
      rw [settle_silent hl ht]
      have hr : s.inRun = true := h.sound.running.mpr (by simp [hl])
      have hkeeps := line_keeps ⟨h, hr, hl⟩
      rw [ht] at hkeeps
      exact ih hkeeps

theorem pointStep_keepsInv {s t : State} (h : s.Inv) (ht : pointStep s = .next t) : t.Inv := by
  rcases h.control with ⟨hr, hl⟩ | ⟨l, stack, hline⟩
  · rw [pointStep_betweenRuns hl hr] at ht
    cases ht
    exact h
  · have hkeeps := line_keeps hline
    cases hc : line l s with
    | silent u => simp [pointStep, hline.ctlp, hc] at ht
    | operation c after =>
      rw [pointStep_operation hline.ctlp hc] at ht
      rw [hc] at hkeeps
      exact hkeeps t ht

theorem decoderStep_keepsInv {s t : State} (h : s.Inv) (ht : decoderStep s = .next t) :
    t.Inv := by
  rw [h.sound.inControl.decoderStep_eq] at ht
  exact pointStep_keepsInv (settle_keepsInv h settleFuel) ht

/-! ## The inputs keep the invariant -/

/-- What an input may write without a start of a run or a reset. -/
def State.withInputs (s : State) (cfg : Word) (cp : Bool) (hostData : Word) (hostErr : Bool)
    (hz : PerChannel Nat) (env : List Input) : State :=
  { s with cfg := cfg, cp := cp, hostData := hostData, hostErr := hostErr, hz := hz, env := env }

section
variable {s t : State}

/-- The claims read nothing of it but the horizons, which only grow. -/
theorem State.Meets.withInputs {c : Claim} (hm : s.Meets c) (cfg : Word) (cp : Bool)
    (hostData : Word) (hostErr : Bool) {hz : PerChannel Nat} (env : List Input)
    (hhz : ∀ c, s.hz.get c ≤ hz.get c) :
    (s.withInputs cfg cp hostData hostErr hz env).Meets c := by
  cases c
  case position => exact fun c hp => Nat.lt_of_lt_of_le (hm c hp) (hhz c)
  all_goals exact hm

theorem State.Inv.withInputs (h : s.Inv) {cfg : Word} (cp : Bool) (hostData : Word)
    (hostErr : Bool) {hz : PerChannel Nat} (env : List Input) (hcfg : cfg &&& cfgDefined = cfg)
    (hhz : ∀ c, s.hz.get c ≤ hz.get c ∧ hz.get c ≤ s.cap.len) :
    (s.withInputs cfg cp hostData hostErr hz env).Inv := by
  have hin := h.sound.inputs
  have hin' : (s.withInputs cfg cp hostData hostErr hz env).SoundInputs :=
    ⟨hin.capture, fun c => ⟨(hin.horizon c).1.trans (hhz c).1, (hhz c).2⟩,
      ⟨hcfg, hin.reserved.2⟩, hin.legal⟩
  have keep {c : Claim} (hm : s.Meets c) := hm.withInputs cfg cp hostData hostErr env
    fun c => (hhz c).1
  rcases h.control with ⟨hr, hl⟩ | ⟨l, stack, hline⟩
  · exact inv_of_betweenRuns hin' hr hl fun c hc => keep (h.1.meets_always hc)
  · exact inv_of_meets hin' hline.run hline.ctlp h.sound.stack h.sound.depth
      (fun c hc => keep (hline.meets hc))
      fun k hk c hc hat => keep (h.meetsBelow hline.ctlp k hk c hc hat)

theorem State.Inv.withHost (h : s.Inv) {cfg : Word} (cp : Bool) (hostData : Word) (hostErr : Bool)
    (env : List Input) (hcfg : cfg &&& cfgDefined = cfg) :
    (s.withInputs cfg cp hostData hostErr s.hz env).Inv :=
  h.withInputs cp hostData hostErr env hcfg fun c => ⟨Nat.le_refl _, (h.sound.horizon c).2⟩

theorem State.Inv.withSchedule (h : s.Inv) (env : List Input) :
    ({ s with env := env } : State).Inv :=
  h.withHost s.cp s.hostData s.hostErr env h.sound.reserved.1

/-- Every cursor of a present channel starts at sample 0. -/
theorem State.startRun_pos {c : Channel} (hp : s.startRun.present c = true) :
    s.startRun.pos.get c = 0#64 := by
  cases c
  case clk => rfl
  all_goals exact if_pos hp

/-- The values a run and a reset begin with meet the claims made everywhere. -/
theorem meets_always_of_start (hmb : s.mb = []) (hmdir : s.mdir = 0#2)
    (hacc : ∀ a, s.acc a = .zero) (hrt : s.rt = false) (hnr : s.nr = false) {c : Claim}
    (hc : c.always = true) : s.Meets c := by
  cases c
  case markers => simp [State.Meets, hmb]
  case direction => exact .inl hmdir
  case remaining => exact fun a => hacc a ▸ Nat.zero_le _
  case width => exact fun a => hacc a ▸ Nat.two_pow_pos _
  case toggle => exact fun h => by simp [hrt] at h
  case deferred => exact fun h => by simp [hnr] at h
  all_goals cases hc

theorem State.Inv.startRun (h : s.Inv) (hlegal : cfgLegal s.cfg = true) : s.startRun.Inv := by
  have hin := h.sound.inputs
  refine inv_of_meets (l := .run1) (stack := [])
    ⟨hin.capture, hin.horizon, ⟨hin.reserved.1, hin.reserved.1⟩, hlegal⟩ rfl rfl rfl
    (Nat.le_add_left 1 3) (fun c hc => ?_) (fun k hk => by cases hk)
  cases c
  case markers | direction | remaining | width | toggle | deferred =>
    exact meets_always_of_start rfl rfl (fun a => by cases a <;> rfl) rfl rfl rfl
  case position => exact fun c hp => State.startRun_pos hp ▸ (hin.horizon c).1
  case clear =>
    intro he t _ ⟨hlt, hle⟩
    have hclk : s.startRun.pos.clk = s.startRun.pos.en :=
      (State.startRun_pos (c := .clk) rfl).trans (State.startRun_pos (c := .en) he).symm
    exact BitVec.not_le.mpr hlt (hclk ▸ hle)
  all_goals cases hc

/-- `GO` with an illegal `CFG` starts no run. -/
theorem State.Inv.rejected (h : s.Inv) (hr : s.inRun = false) :
    ({ s with runState := .rejected, cause := .configRejected } : State).Inv := by
  have hsame : s.SameBut [] { s with runState := .rejected, cause := .configRejected } :=
    .unread s s.op .rejected .configRejected s.ansBit s.ansPos s.sink
  exact inv_of_betweenRuns (hsame.inputs h.sound.inputs) rfl (h.ctlp_of_betweenRuns hr)
    fun c hc => hsame.meets (fun _ _ => List.not_mem_nil) (h.1.meets_always hc)

theorem State.Inv.goBit (h : s.Inv) : s.goBit.Inv := by
  unfold State.goBit; split
  · exact h
  case isFalse hr =>
    split
    case isTrue hlegal => exact h.startRun hlegal
    case isFalse => exact h.rejected (Bool.eq_false_iff.mpr hr)

theorem State.Inv.accepted (h : s.Inv) : s.accepted.Inv :=
  h.withHost s.cp s.hostData false s.env h.sound.reserved.1

theorem State.Inv.cancelBit (h : s.Inv) : s.cancelBit.Inv := by
  unfold State.cancelBit; split
  · exact h.withHost true s.hostData s.hostErr s.env h.sound.reserved.1
  · exact h

theorem ctrlWriteOp_keepsInv {v : Word} (h : s.Inv) (ht : ctrlWriteOp v s = .next t) : t.Inv := by
  have hgo : (if v.getLsbD 0 then s.goBit else s).Inv := by
    split
    · exact h.goBit
    · exact h
  cases ht
  split
  · exact hgo.cancelBit.accepted
  · exact hgo.accepted

theorem hostReturns_keepsInv {v : Word} (h : s.Inv) (ht : hostReturns v s = .next t) : t.Inv := by
  cases ht
  exact h.withHost s.cp v false s.env h.sound.reserved.1

theorem cfgWrite_keepsInv {v : Word} (h : s.Inv) (ht : cfgWrite v s = .next t) : t.Inv := by
  cases ht
  exact h.withHost s.cp s.hostData false s.env (by rw [BitVec.and_assoc, BitVec.and_self])

theorem ignoredWrite_keepsInv (h : s.Inv) (ht : ignoredWrite s = .next t) : t.Inv := by
  cases ht
  exact h.accepted

theorem refusedAccess_keepsInv {write : Bool} (h : s.Inv) (ht : refusedAccess write s = .next t) :
    t.Inv := by
  cases ht
  exact h.withHost s.cp _ _ s.env h.sound.reserved.1

theorem plain_eq_some {o : BitVec 32} {i j : Instr} (h : plain o i = some j) : i = j := by
  unfold plain at h; split at h
  · exact Option.some.inj h
  · cases h

/-- The instructions of the `HA` format are the host accesses. -/
theorem decodeHa_cases {b : BitVec 8} {v : Word} {i : Instr} (h : decodeHa b v = some i) :
    i = .rdCfg ∨ i = .wrCfg v ∨ i = .rdCtrl ∨ i = ctrlWrite v ∨ i = .rdStatus ∨ i = .wrStatus v ∨
      i = .rdRsvd ∨ i = .wrRsvd v := by
  unfold decodeHa at h
  split at h
  case isFalse => cases h
  case isTrue =>
    split at h
    case h_1 | h_3 | h_5 | h_7 => simp [← plain_eq_some h]
    case h_2 | h_4 | h_6 | h_8 => simp [← Option.some.inj h]
    case h_9 => cases h

theorem exec_ctrlWrite (v : Word) (s : State) : exec (ctrlWrite v) s = ctrlWriteOp v s := by
  unfold ctrlWrite; split
  case isTrue h => rw [h]; rfl
  case isFalse =>
    split
    case isTrue h => rw [h]; rfl
    case isFalse => rfl

theorem hostInput_keepsInv {a : HostAccess} (h : s.Inv) (ht : hostInput a s = .next t) :
    t.Inv := by
  unfold hostInput at ht
  split at ht
  case h_2 => exact refusedAccess_keepsInv h ht
  case h_1 i _ hi =>
    rcases decodeHa_cases (show decodeHa _ _ = some i from hi) with
      rfl | rfl | rfl | rfl | rfl | rfl | rfl | rfl
    · exact hostReturns_keepsInv h ht
    · exact cfgWrite_keepsInv h ht
    · exact hostReturns_keepsInv h ht
    · exact ctrlWriteOp_keepsInv h (exec_ctrlWrite _ s ▸ ht)
    · exact hostReturns_keepsInv h ht
    · exact ignoredWrite_keepsInv h ht
    · exact hostReturns_keepsInv h ht
    · exact ignoredWrite_keepsInv h ht

theorem busInput_keepsInv {addr : Nat} {write : Bool} {size : AccessSize} {data : Word}
    (h : s.Inv) (ht : busInput addr write size data s = .next t) : t.Inv := by
  unfold busInput at ht
  split at ht
  · exact hostInput_keepsInv h ht
  · cases ht; exact h

theorem growInput_keepsInv {c : Channel} {n : Nat} (h : s.Inv) (ht : growInput c n s = .next t) :
    t.Inv := by
  cases ht
  refine h.withInputs s.cp s.hostData s.hostErr s.env h.sound.reserved.1 fun d => ?_
  have hd := h.sound.horizon d
  by_cases hdc : d = c
  · subst hdc
    obtain ⟨-, hle, hge⟩ := growTo_bounds (h := n) hd.1 hd.2
    rw [PerChannel.get_set_self]
    exact ⟨hge, hle⟩
  · rw [PerChannel.get_set_of_ne _ _ _ _ hdc]
    exact ⟨Nat.le_refl _, hd.2⟩

/-- The claims made between runs read nothing of a capture. -/
theorem State.Meets.withCapture {c : Claim} (hm : s.Meets c) (hc : c.always = true) (cap : Capture)
    (hz : PerChannel Nat) : ({ s with cap := cap, hz := hz } : State).Meets c := by
  cases c
  case markers | direction | remaining | width | toggle | deferred => exact hm
  all_goals cases hc

theorem presentInput_keepsInv {cap : Capture} {hz : PerChannel Nat} (h : s.Inv)
    (ht : presentInput cap hz s = .next t) : t.Inv := by
  have hwf := presentInput_wf ht
  unfold presentInput at ht
  split at ht
  case isTrue => cases ht
  case isFalse hr =>
    split at ht
    case isFalse => cases ht
    case isTrue =>
      cases ht
      have hin := h.sound.inputs
      have hr := Bool.eq_false_iff.mpr hr
      have hlen : 1 ≤ cap.len := by
        simp only [Capture.wf, Bool.and_eq_true, decide_eq_true_eq] at hwf
        exact hwf.1.1.1.1.1
      refine inv_of_betweenRuns ⟨hwf, fun c => ?_, hin.reserved, hin.legal⟩ hr
        (h.ctlp_of_betweenRuns hr) fun c hc => ?_
      · have hgrow (n : Nat) := growTo_bounds (h := n) (Nat.le_refl 1) hlen
        cases c <;> exact ⟨(hgrow _).1, (hgrow _).2.1⟩
      · exact (h.1.meets_always hc).withCapture hc cap _

/-- The reset values meet the invariant with every capture and horizon. -/
theorem resetWith_inv {cap : Capture} {hz : PerChannel Nat} (sink : List Record)
    (env : List Input) (hcap : cap.wf = true) (hhz : ∀ c, 1 ≤ hz.get c ∧ hz.get c ≤ cap.len) :
    ({ State.reset with cap := cap, hz := hz, sink := sink, env := env } : State).Inv := by
  have hreserved : State.reset.cfg &&& cfgDefined = State.reset.cfg ∧
      State.reset.cfgl &&& cfgDefined = State.reset.cfgl := by decide
  have hlegal : cfgLegal State.reset.cfgl = true := by decide
  exact inv_of_betweenRuns ⟨hcap, hhz, hreserved, hlegal⟩ rfl rfl fun c hc =>
    meets_always_of_start rfl rfl (fun a => by cases a <;> rfl) rfl rfl hc

theorem rstInput_keepsInv (h : s.Inv) (ht : rstInput s = .next t) : t.Inv := by
  cases ht
  exact resetWith_inv s.sink s.env h.sound.capture h.sound.horizon

end

/-! ## The statements -/

/-- Settles O48: by the schedule's next entry; a decoder step goes line by line (`line_keeps`). -/
theorem stepKeepsInvariant : Obligations.StepKeepsInvariant := by
  unfold Obligations.StepKeepsInvariant
  intro s t h hstep
  rcases step_cases hstep with ⟨-, ht⟩ | ⟨e, rest, -, ht⟩
  · exact decoderStep_keepsInv h ht
  · have h := h.withSchedule rest
    cases e with
    | decoder => exact decoderStep_keepsInv h ht
    | host a => exact hostInput_keepsInv h ht
    | bus addr write size data => exact busInput_keepsInv h ht
    | grow c n => exact growInput_keepsInv h ht
    | present cap hz => exact presentInput_keepsInv h ht
    | rst => exact rstInput_keepsInv h ht

/-- Settles O47: the reset state is between runs, where the invariant asks only for the reset
values; the other two speak of a run. -/
theorem resetMeetsInvariants : Obligations.ResetMeetsInvariants := by
  unfold Obligations.ResetMeetsInvariants
  refine ⟨?_, nofun, nofun⟩
  exact resetWith_inv [] [] Capture.shortest_wf fun c => by cases c <;> decide

/-- Settles O21, by the two branches of `State.enter`: every procedure is one `enter`. -/
theorem procedureEntry : Obligations.ProcedureEntry := by
  unfold Obligations.ProcedureEntry
  intro s
  refine ⟨fun hroom => ?_, fun hfull i hi => ?_, fun hfull e => ?_⟩
  · have hpush (l : Label) :
        (.next (s.enter l) : Out) = .next { s with ctlp := .line l :: s.ctlp } :=
      congrArg _ (s.enter_of_lt l hroom)
    exact ⟨hpush .run1, hpush .su1, hpush .rs1, hpush .ae1, hpush .na1,
      fun e => congrArg _ (s.enterRace_of_lt e hroom), hpush .gw1, hpush .sd1⟩
  · have hfault (l : Label) : (.next (s.enter l) : Out) = .next (s.faulted s.op) :=
      congrArg _ (s.enter_of_full l hfull)
    simp only [List.mem_cons, List.not_mem_nil, or_false] at hi
    rcases hi with rfl | rfl | rfl | rfl | rfl | rfl | rfl <;> exact hfault _
  · exact congrArg _ (State.enter_of_full { s with raceEmit := e } .rc1 hfull)

end Sys2Proof.Machine
end

section
/-! What each input of the environment does, and the statements of 20_memory.md about the register
window and the cursor provider. -/

namespace Sys2Proof.Machine

open Sys2Proof

/-! ## The register window (20_memory.md R46, R56) -/

theorem busInput_inside {k : Nat} (hk : k < 16) (write : Bool) (size : AccessSize) (data : Word)
    (s : State) : busInput (Config.spdBase + k) write size data s =
      hostInput ⟨write, size, BitVec.ofNat 4 k, data⟩ s := by
  rw [busInput, if_pos ⟨Nat.le_add_right _ _, Nat.add_lt_add_left hk _⟩, Nat.add_sub_cancel_left]

theorem busInput_outside {addr : Nat} (h : addr < Config.spdBase ∨ Config.spdBase + 16 ≤ addr)
    (write : Bool) (size : AccessSize) (data : Word) (s : State) :
    busInput addr write size data s = .next s := if_neg (by omega)

/-- Settles O41, by the two branches of `busInput`. -/
theorem registerWindow : Obligations.RegisterWindow := by
  unfold Obligations.RegisterWindow
  intro s addr write size data rest henv
  rw [step_of_env_cons henv]
  refine ⟨fun k hk haddr => ?_, fun hout => busInput_outside hout write size data _⟩
  rw [step_of_env_cons rfl, haddr]
  exact busInput_inside hk write size data _

/-! ## The cursor provider (20_memory.md R48, R49) -/

theorem presentInput_inRun {s : State} {cap : Capture} {hz : PerChannel Nat}
    (hr : s.inRun = true) : presentInput cap hz s = .refused .captureChangedDuringRun := if_pos hr

theorem presentInput_malformed {s : State} {cap : Capture} {hz : PerChannel Nat}
    (hr : s.inRun = false) (hwf : cap.wf = false) :
    presentInput cap hz s = .refused .malformedCapture := by
  simp [presentInput, hr, hwf]

/-- What is presented between runs stands at the input port. -/
theorem presentInput_accepted {s : State} {cap : Capture} (hr : s.inRun = false)
    (hwf : cap.wf = true) (hz : PerChannel Nat) : ∃ hz' : PerChannel Nat,
      presentInput cap hz s = .next { s with cap := cap, hz := hz' } ∧
      ∀ c, hz'.get c = growTo cap.len 1 (hz.get c) := by
  refine ⟨⟨growTo cap.len 1 hz.clk, growTo cap.len 1 hz.dout, growTo cap.len 1 hz.din,
    growTo cap.len 1 hz.en⟩, by simp [presentInput, hr, hwf], fun c => by cases c <;> rfl⟩

theorem Capture.one_le_len {cap : Capture} (h : cap.wf = true) : 1 ≤ cap.len := by
  simp only [Capture.wf, Bool.and_eq_true, decide_eq_true_eq] at h
  exact h.1.1.1.1.1

theorem growTo_eq_of_le {len old h : Nat} (h₁ : old ≤ h) (h₂ : h ≤ len) :
    growTo len old h = h := by
  unfold growTo; omega

/-- Settles O46: a horizon by `growTo`, a capture by the three branches of `presentInput`. -/
theorem providerInputs : Obligations.ProviderInputs := by
  unfold Obligations.ProviderInputs
  intro s rest
  refine ⟨fun c h henv => step_of_env_cons henv, fun cap hz henv => ?_⟩
  rw [step_of_env_cons henv]
  refine ⟨presentInput_inRun (s := { s with env := rest }) (cap := cap) (hz := hz),
    presentInput_malformed (s := { s with env := rest }) (hz := hz), fun hr hwf => ?_⟩
  obtain ⟨hz', hpresent, hget⟩ :=
    presentInput_accepted (s := { s with env := rest }) hr hwf hz
  refine ⟨_, hpresent, rfl, fun c => ?_⟩
  have hbounds := growTo_bounds (h := hz.get c) (Nat.le_refl 1) (Capture.one_le_len hwf)
  dsimp only
  rw [hget]
  exact ⟨hbounds.1, hbounds.2.1, growTo_eq_of_le⟩

end Sys2Proof.Machine
end

section
/-! Where each line leads and what it performs: the control flow of the pseudocode as a table, the
operation of each line, and what the rest of a line does. -/

namespace Sys2Proof.Machine

open Sys2Proof

/-! ## Where a line leads (10_state.md R30) -/

/-- The labels a line leads to without returning: by a `goto` or into the procedure it calls. -/
def flow : Label → List Label
  | .run1 => [.su1] | .run2 => [.rs1] | .run3 => [.gw1] | .run4 => [.run3]
  | .rs1 => [.ae1] | .rs2 => [.rs9, .rs3] | .rs3 => [.na1, .rs7] | .rs4 => [.rs5] | .rs5 => [.rs6]
  | .rs6 => [.rs2] | .rs7 => [.rs8] | .rs8 => [.rs9]
  | .ae1 => [.ae2] | .ae2 => [.na1, .ae2n1] | .ae2n1 => [.ae2n2, .ae2n3] | .ae2n2 => [.ae2n3]
  | .ae2n3 => [.ae3] | .ae3 => [.ae4]
  | .na1 => [.na2, .na3] | .na2 => [.na3]
  | .rc1 => [.rc2] | .rc2 => [.rc7, .rc3] | .rc3 => [.rc4, .rc7] | .rc4 => [.rc5, .rc7]
  | .rc5 => [.rc6] | .rc6 => [.rc7, .rc10] | .rc7 => [.rc8] | .rc8 => [.rc9] | .rc9 => [.rc10]
  | .gw1 => [.gw2] | .gw2 => [.gw3] | .gw3 => [.gw4] | .gw4 | .gw4next => [.gw5, .gw18]
  | .gw5 | .gw11 | .gw14 => [.rc1] | .gw6 => [.rs1, .gw7] | .gw7 => [.gw8] | .gw8 => [.gw9]
  | .gw9 => [.sd1, .gw10] | .gw10 => [.gw11, .gw14] | .gw12 => [.gw18, .gw13] | .gw13 => [.gw18]
  | .gw15 => [.rs1, .gw16] | .gw16 => [.gw17] | .gw17 => [.sd1, .gw4next]
  | .gw18 => [.gw19] | .gw19 => [.gw20] | .gw20 => [.rs1]
  | .sd1 => [.sd2] | .sd2 => [.sd3] | .sd3 => [.sd4] | .sd4 => [.sd5] | .sd5 => [.sd6]
  | .su1 | .rs9 | .ae4 | .na3 | .rc10 | .gwRet | .sd6 => []

/-- The lines that may return from their procedure. -/
def returns : Label → Bool
  | .su1 | .rs9 | .ae1 | .ae4 | .na3 | .rc1 | .rc8 | .rc10 | .gw20 | .gwRet | .sd6 => true
  | _ => false

/-- From the line `l` of `s` the run goes on in `t` at a label of `flow l`, at the caller, or at
`GW.18` once more, or it has no control point left. -/
def State.Leads (s : State) (l : Label) (t : State) : Prop :=
  t.ctlp = [] ∨ (t.runState = s.runState ∧
    ((∃ m ∈ flow l, t.top = some m) ∨ (returns l = true ∧ t.ctlp = s.ctlp.tail) ∨
      (l = .gw18 ∧ t.ctlp = s.ctlp)))

section
variable {s t u : State} {l m f e : Label}

theorem State.Leads.goto (hr : u.runState = s.runState) (hm : m ∈ flow l) :
    s.Leads l (u.goto m) :=
  .inr ⟨hr, .inl ⟨m, hm, rfl⟩⟩

theorem State.Leads.ret (hr : u.runState = s.runState) (hl : u.ctlp = s.ctlp)
    (hret : returns l = true) : s.Leads l u.ret :=
  .inr ⟨hr, .inr (.inl ⟨hret, congrArg List.tail hl⟩)⟩

theorem State.Leads.fault (code : BitVec 8) : s.Leads l (u.internalFault code) := .inl rfl

theorem State.Leads.enter (hr : u.runState = s.runState) (hm : m ∈ flow l) :
    s.Leads l (u.enter m) := by
  unfold State.enter; split
  · exact .inr ⟨hr, .inl ⟨m, hm, rfl⟩⟩
  · exact .fault _

theorem State.Leads.call (hr : u.runState = s.runState) (he : e ∈ flow l) :
    s.Leads l (u.call f e) :=
  .enter hr he

theorem State.Leads.loopAt (h₁ : .gw5 ∈ flow l) (h₂ : .gw18 ∈ flow l) (i : Nat) :
    s.Leads l (s.loopAt i) := by
  unfold State.loopAt; split
  · exact .goto rfl h₁
  · exact .goto rfl h₂

theorem State.Leads.noteSample : s.Leads .sd6 s.noteSample := by
  unfold State.noteSample; split
  · exact withReg_ind (.fault _) fun _ => .ret rfl rfl rfl
  · exact .fault _

/-- A line without an operation. -/
theorem line_silent_leads (h : line l s = .silent t) : s.Leads l t := by
  cases l <;> simp only [line, operate] at h
  case run1 | run2 | run3 | rs1 => cases h; exact .call rfl (by decide)
  case run4 => cases h; exact .goto rfl (by decide)
  case su1 => cases h; exact .ret rfl rfl rfl
  case gwRet => cases h; exact .ret rfl rfl rfl
  case ae1 | gw8 | gw18 | sd2 | sd3 | sd4 | sd5 =>
    split at h <;> cases h
    exact .goto rfl (by decide)
  case ae2 =>
    cases h; unfold State.callNextActive; split
    · exact .call rfl (by decide)
    · exact .goto rfl (by decide)
  case rc1 =>
    split at h <;> cases h
    · exact .goto rfl (by decide)
    · exact .ret rfl rfl rfl
  case rc10 | gw20 => split at h <;> cases h; exact .ret rfl rfl rfl
  case gw4 | gw4next => cases h; exact .loopAt (by decide) (by decide) _
  case gw5 | gw11 | gw14 => cases h; exact .enter rfl (by decide)
  case gw6 | gw15 | gw9 | gw17 =>
    cases h; split
    · exact .call rfl (by decide)
    · exact .goto rfl (by decide)
  case gw10 => cases h; exact .goto rfl (by split <;> decide)
  case gw12 =>
    cases h; split
    · exact withReg_ind (.fault _) fun _ => .goto (by simp) (by decide)
    · exact .goto rfl (by decide)
  case sd6 => cases h; exact .noteSample
  all_goals cases h

end

/-! ## The operation of a line -/

/-- The operations of the decoder: the instructions of the format `OPC`. -/
def isOperation (i : Instr) : Bool := (encode i).fmt == .opc

/-- The operation the line `l` performs, where it performs one; at `GW.18` it is that of `MDIR`. -/
def operationAt (mdir : BitVec 2) : Label → Option Instr
  | .rs2 => some .curLevelClk | .rs3 => some .emitMarkerError | .rs4 | .ae3 => some .curPosEn
  | .rs5 => some .emitError | .rs6 | .ae4 => some (.curAdvToClk .cs) | .rs7 => some .curAdvEdgeClk
  | .rs8 | .ae1 => some .curPosClk | .rs9 => some .emitStart
  | .na1 | .ae2n1 => some .curLevelEn
  | .na2 | .na3 | .ae2n2 | .ae2n3 => some .curAdvEdgeEn
  | .rc2 => some .curHasMoreClk | .rc3 => some .curLevelEn | .rc4 => some .curHasMoreEn
  | .rc5 | .rc9 => some .curNextEdgeEn | .rc6 => some (.curWouldCrossClk .rs)
  | .rc7 => some .curNextEdgeClk | .rc8 => some (.curWouldCrossEn .rn)
  | .rc10 => some (.emitDisable .rs)
  | .gw1 => some .poll | .gw2 => some .accResetDout | .gw3 => some .accResetDin
  | .gw7 | .gw13 | .gw16 => some .curAdvEdgeClk | .gw8 | .gw19 => some .curPosClk
  | .gw18 => some (if mdir = 0#2 then .emitMarkerUp else .emitMarkerDown)
  | .gw20 => some (.emitDisable .ds)
  | .sd1 => some .curPosClk
  | .sd2 => some (.curAdvToDout .cs) | .sd3 => some .curLevelDout
  | .sd4 => some (.curAdvToDin .cs) | .sd5 => some .curLevelDin
  | _ => none

theorem operationAt_isOperation {d : BitVec 2} {l : Label} {i : Instr}
    (h : operationAt d l = some i) : isOperation i = true := by
  cases l
  case gw18 =>
    simp only [operationAt, Option.some.injEq] at h
    split at h <;> cases h <;> rfl
  all_goals cases h <;> rfl

section
variable {s : State} {l : Label} {c : Code} {after : State → Out}

theorem line_operation (hdir : s.mdir = 0#2 ∨ s.mdir = 1#2) (h : line l s = .operation c after) :
    ∃ i, operationAt s.mdir l = some i ∧ decode c = some i := by
  cases l <;> simp only [line, operate] at h
  case gw18 =>
    split at h <;> cases h
    rcases hdir with hd | hd <;> rw [hd] <;> exact ⟨_, rfl, by decide⟩
  case rc1 => split at h <;> cases h
  case ae1 | rc10 | gw8 | gw20 | sd2 | sd3 | sd4 | sd5 =>
    split at h <;> cases h; exact ⟨_, rfl, by decide⟩
  case run1 | run2 | run3 | run4 | su1 | rs1 | ae2 | gw4 | gw5 | gw6 | gw9 | gw10 | gw11 | gw12
    | gw14 | gw15 | gw17 | gw4next | gwRet | sd6 => cases h
  all_goals cases h; exact ⟨_, rfl, by decide⟩

/-! ## The rest of a line -/

/-- The second operation of a line with two: a bit for an accumulator, or a `RESULT`. -/
def isSecond : Instr → Bool
  | .accAddBitDout0 | .accAddBitDout1 | .accAddBitDin0 | .accAddBitDin1 | .emitResult => true
  | _ => false

theorem isSecond_accAddBit (a : AccSel) (b : Level) : isSecond (.accAddBit a b) = true := by
  cases a <;> cases b <;> rfl

/-- The rest of a line changes what a line without an operation may change and goes where the line
leads, or it is a second operation and a `goto`. -/
theorem line_rest (h : line l s = .operation c after) (t : State) :
    (∃ u, after t = .next u ∧ t.SilentFrame u ∧ t.Leads l u) ∨
    (∃ i m, isSecond i = true ∧ m ∈ flow l ∧
      after t = proceed (exec i t) fun u => .next (u.goto m)) := by
  have goto {u : State} {m : Label} (hu : t.SilentFrame u) (hr : u.runState = t.runState)
      (hm : m ∈ flow l) : t.SilentFrame (u.goto m) ∧ t.Leads l (u.goto m) :=
    ⟨hu.trans (.goto u m), .goto hr hm⟩
  have ret {u : State} (hu : t.SilentFrame u) (hr : u.runState = t.runState)
      (hl : u.ctlp = t.ctlp) (hret : returns l = true) : t.SilentFrame u.ret ∧ t.Leads l u.ret :=
    ⟨hu.trans (.ret u), .ret hr hl hret⟩
  have setReg (u : State) (r : SampleReg) (v : Sample) : u.SilentFrame (u.setReg r v) := by
    cases r <;> exact .update u ..
  cases l <;> simp only [line, operate] at h
  case rs3 =>
    cases h; refine .inl ⟨_, rfl, ?_⟩
    have hrec := State.SilentFrame.record t .polarityMismatch
    split
    · refine withReg_ind (P := fun u => t.SilentFrame u ∧ t.Leads .rs3 u)
        ⟨hrec.trans (.fault _), .fault _⟩ fun v => ⟨?_, .call (by simp) (by decide)⟩
      exact (hrec.trans (setReg _ .es v)).trans (.call _ _ _)
    · exact goto hrec rfl (by decide)
  case rs2 | rc2 | rc3 | rc4 | na1 | ae2n1 =>
    cases h; exact .inl ⟨_, rfl, goto (.refl t) rfl (by split <;> decide)⟩
  case rs5 | rs6 | rs7 | na2 | ae2n2 | ae2n3 | gw1 | gw2 | gw7 | gw16 =>
    cases h; exact .inl ⟨_, rfl, goto (.refl t) rfl (by decide)⟩
  case rs9 | ae4 | na3 => cases h; exact .inl ⟨_, rfl, ret (.refl t) rfl rfl rfl⟩
  case rs4 | rs8 | ae3 | rc5 | rc7 | sd1 =>
    cases h; exact .inl ⟨_, rfl, goto (setReg t _ _) (by simp) (by decide)⟩
  case ae1 =>
    split at h <;> cases h
    exact .inl ⟨_, rfl, ret (setReg t _ _) (by simp) (by simp) rfl⟩
  case rc6 =>
    cases h; refine .inl ⟨_, rfl, ?_⟩; split
    · exact goto (.refl t) rfl (by decide)
    · exact goto (.update t ..) rfl (by decide)
  case rc8 =>
    cases h; refine .inl ⟨_, rfl, ?_⟩; split
    · exact goto (.refl t) rfl (by decide)
    · exact ret (.update t ..) rfl rfl rfl
  case rc9 =>
    cases h
    exact .inl ⟨_, rfl, goto ((setReg t .rs _).trans (.update _ ..))
      rfl (by decide)⟩
  case rc10 => split at h <;> cases h; exact .inl ⟨_, rfl, ret (.refl t) rfl rfl rfl⟩
  case gw3 =>
    cases h
    exact .inl ⟨_, rfl, goto (.update t ..) rfl (by decide)⟩
  case gw8 =>
    split at h <;> cases h; exact .inl ⟨_, rfl, goto (setReg t _ _) (by simp) (by decide)⟩
  case gw13 => cases h; exact .inl ⟨_, rfl, .toMarkers t, .goto rfl (by decide)⟩
  case gw18 =>
    split at h <;> cases h
    exact .inl ⟨_, rfl, .refl t, .inr ⟨rfl, .inr (.inr ⟨rfl, rfl⟩)⟩⟩
  case gw19 => cases h; exact .inr ⟨.emitResult, .gw20, rfl, by decide, rfl⟩
  case gw20 =>
    split at h <;> cases h
    exact .inl ⟨_, rfl, (State.SilentFrame.record t _).trans (.call _ _ _), .call rfl (by decide)⟩
  case sd2 | sd4 => split at h <;> cases h; exact .inl ⟨_, rfl, goto (.refl t) rfl (by decide)⟩
  case sd3 | sd5 =>
    split at h <;> cases h; exact .inr ⟨_, _, isSecond_accAddBit _ t.ansBit, by decide, rfl⟩
  case rc1 => split at h <;> cases h
  all_goals cases h

end

/-! ## What an operation writes -/

/-- The parts of the state, of those that the invariant reads, that an operation may write. -/
def writes : Instr → List Field
  | .curAdvEdgeClk | .curAdvToClk _ => [.pos .clk]
  | .curAdvEdgeDout | .curAdvToDout _ => [.pos .dout]
  | .curAdvEdgeDin | .curAdvToDin _ => [.pos .din]
  | .curAdvEdgeEn | .curAdvToEn _ => [.pos .en]
  | .accResetDout | .accAddBitDout0 | .accAddBitDout1 => [.acc .dout]
  | .accResetDin | .accAddBitDin0 | .accAddBitDin1 => [.acc .din]
  | .emitMarkerUp | .emitMarkerDown => [.k]
  | _ => []

theorem State.Result.done {s u : State} {xs : List Field} {Q : State → Prop}
    (h : s.Result xs Q u) : s.Result xs (fun _ => True) u :=
  h.imp_right (And.imp_right fun _ => trivial)

/-- Every operation stops, or it is performed and writes no more than `writes` says. -/
theorem exec_result {i : Instr} {s u : State} (hop : isOperation i = true)
    (h : exec i s = .next u) : s.Result (writes i) (fun _ => True) u := by
  cases i with
  | curLevelClk | curLevelDout | curLevelDin | curLevelEn => exact (levelOp_result h).done
  | curPosClk | curPosDout | curPosDin | curPosEn => exact (posOp_result h).done
  | curAdvEdgeClk | curAdvEdgeDout | curAdvEdgeDin | curAdvEdgeEn => exact (advEdgeOp_result h).done
  | curAdvToClk | curAdvToDout | curAdvToDin | curAdvToEn => exact (advToOp_result h).done
  | curNextEdgeClk | curNextEdgeDout | curNextEdgeDin | curNextEdgeEn =>
    exact (nextEdgeOp_result h).done
  | curWouldCrossClk | curWouldCrossDout | curWouldCrossDin | curWouldCrossEn =>
    exact (wouldCrossOp_result h).done
  | curHasMoreClk | curHasMoreDout | curHasMoreDin | curHasMoreEn => exact hasMoreOp_result h
  | accResetDout | accResetDin => exact (accResetOp_result h).done
  | accAddBitDout0 | accAddBitDout1 | accAddBitDin0 | accAddBitDin1 =>
    exact (accAddBitOp_result h).done
  | poll => exact pollOp_result h
  | emitStart => exact emitStartOp_result h
  | emitError => exact emitErrorOp_result h
  | emitDisable => exact emitDisableOp_result h
  | emitResult => exact emitResultOp_result h
  | emitMarkerUp | emitMarkerDown => exact (emitBitMarkerOp_result h).done
  | emitMarkerError => exact emitErrorMarkerOp_result h
  | procRun | procSetup | procResync | procAdvActiveEnable | procNextActiveEdge | procRaceCheck
  | procGetWord | procSampleData | rdCfg | wrCfg | rdCtrl | wrCtrl | rdStatus | wrStatus | rdRsvd
  | wrRsvd | go | cancel => cases hop

end Sys2Proof.Machine
end

section
/-! Nothing goes back: what a step does to the cursors, the horizons, the configuration of the run,
the capture and the records already emitted. -/

namespace Sys2Proof.Machine

open Sys2Proof

/-! ## Nothing goes back (20_memory.md R49, R50, R61, 45_events.md R140, 10_state.md R21) -/

/-- From `s` to `t` no cursor, no horizon and no record goes back, and the configuration of the run
and the capture stay. -/
structure State.Onward (s t : State) : Prop where
  cfgl : t.cfgl = s.cfgl := by rfl
  cap : t.cap = s.cap := by rfl
  pos : ∀ c, s.pos.get c ≤ t.pos.get c
  hz : ∀ c, s.hz.get c ≤ t.hz.get c
  sink : s.sink <+: t.sink

section
variable {s t u : State} {c : Channel} {r : SampleReg} {code : BitVec 8}

theorem State.Onward.of_eq (hcfgl : t.cfgl = s.cfgl) (hcap : t.cap = s.cap) (hpos : t.pos = s.pos)
    (hhz : t.hz = s.hz) (hsink : t.sink = s.sink) : s.Onward t :=
  ⟨hcfgl, hcap, fun _ => hpos ▸ BitVec.le_refl _, fun _ => hhz ▸ Nat.le_refl _,
    hsink ▸ List.prefix_refl _⟩

theorem State.Onward.refl (s : State) : s.Onward s := .of_eq rfl rfl rfl rfl rfl

theorem State.Onward.trans (h : s.Onward t) (k : t.Onward u) : s.Onward u :=
  ⟨k.cfgl.trans h.cfgl, k.cap.trans h.cap, fun c => BitVec.le_trans (h.pos c) (k.pos c),
    fun c => (h.hz c).trans (k.hz c), h.sink.trans k.sink⟩

theorem State.SilentFrame.onward (h : s.SilentFrame t) : s.Onward t :=
  .of_eq h.cfgl h.cap h.pos h.hz h.sink

theorem State.Onward.fault (s : State) (code : BitVec 8) : s.Onward (s.internalFault code) :=
  .of_eq rfl rfl rfl rfl rfl

theorem State.Onward.needsData (s : State) (c : Channel) (code : BitVec 8) :
    s.Onward (s.needsData c code) := by
  apply State.Onward.of_eq <;> simp

theorem State.Onward.performing (s : State) (code : BitVec 8) : s.Onward (s.performing code) :=
  .of_eq rfl rfl rfl rfl rfl

theorem State.Onward.advance (s : State) (code : BitVec 8) {t : Sample} (h : s.pos.get c ≤ t) :
    s.Onward { s.performing code with pos := s.pos.set c t } where
  pos d := by
    by_cases hd : d = c
    · subst hd; rwa [PerChannel.get_set_self]
    · rw [PerChannel.get_set_of_ne _ _ _ _ hd]; exact BitVec.le_refl _
  hz _ := Nat.le_refl _
  sink := List.prefix_refl _

theorem State.Onward.emit (s : State) (code : BitVec 8) (r : Record) :
    s.Onward (s.emit code r) where
  pos _ := BitVec.le_refl _
  hz _ := Nat.le_refl _
  sink := List.prefix_append _ _

/-- What holds of the fault and of the value read holds of a register read. -/
theorem withReg_val_ind {P : State → Prop} {f : Sample → State}
    (hfault : P (s.internalFault code)) (hval : P (f (s.reg r).val)) : P (withReg r code s f) := by
  unfold withReg; split
  · exact hval
  · exact hfault

theorem State.Onward.withReg {f : Sample → State} (h : s.Onward (f (s.reg r).val)) :
    s.Onward (withReg r code s f) :=
  withReg_val_ind (.fault s code) h

/-- What holds of the fault and of the operation on a present channel holds of what becomes of
it. -/
theorem onChannel_ind {P : State → Prop} {f : State → State} (h : onChannel c code s f = .next u)
    (hfault : P (s.internalFault code)) (hf : P (f s)) : P u := by
  cases h; split
  · exact hf
  · exact hfault

theorem onChannel_onward {f : State → State} (h : onChannel c code s f = .next u)
    (hf : s.Onward (f s)) : s.Onward u :=
  onChannel_ind h (.fault s code) hf

theorem levelOp_onward (h : levelOp c code s = .next u) : s.Onward u :=
  onChannel_onward h (.of_eq rfl rfl rfl rfl rfl)

theorem posOp_onward (h : posOp c code s = .next u) : s.Onward u :=
  onChannel_onward h (.of_eq rfl rfl rfl rfl rfl)

theorem hasMoreOp_onward (h : hasMoreOp c code s = .next u) : s.Onward u :=
  onChannel_onward h (.of_eq rfl rfl rfl rfl rfl)

theorem advEdgeOp_onward (h : advEdgeOp c code s = .next u) : s.Onward u := by
  refine onChannel_onward h ?_
  split
  case h_1 t ht => exact .advance s code (BitVec.le_of_lt (earliest_ahead_iff.mp ht).2.1)
  case h_2 => exact .needsData s c code

theorem advToOp_onward (h : advToOp c r code s = .next u) : s.Onward u := by
  refine onChannel_onward h (.withReg ?_)
  split
  case isTrue => exact .performing s code
  case isFalse hgt =>
    split
    · exact .advance s code (BitVec.le_of_lt (BitVec.not_le.mp hgt))
    · exact .needsData s c code

theorem nextEdgeOp_onward (h : nextEdgeOp c code s = .next u) : s.Onward u := by
  refine onChannel_onward h ?_
  split
  · exact .of_eq rfl rfl rfl rfl rfl
  · exact .needsData s c code

theorem wouldCrossOp_onward (h : wouldCrossOp c r code s = .next u) : s.Onward u := by
  refine onChannel_onward h (.withReg ?_)
  split
  · exact .of_eq rfl rfl rfl rfl rfl
  · split
    · exact .of_eq rfl rfl rfl rfl rfl
    · exact .needsData s c code

theorem accAddBitOp_onward {a : AccSel} {b : Level} (h : accAddBitOp a b code s = .next u) :
    s.Onward u := by
  cases h; split
  · exact .fault s code
  · exact .of_eq (by simp) (by simp) (by simp) (by simp) (by simp)

theorem pollOp_onward (h : pollOp code s = .next u) : s.Onward u := by
  cases h; split <;> exact .of_eq rfl rfl rfl rfl rfl

theorem emitBitMarkerOp_onward {k : MarkerKind} (h : emitBitMarkerOp k code s = .next u) :
    s.Onward u := by
  cases h; split
  case h_1 t _ =>
    exact (State.Onward.emit s code (.marker t k)).trans (.of_eq rfl rfl rfl rfl rfl)
  case h_2 => exact .fault s code

theorem State.Onward.enter (s : State) (l : Label) : s.Onward (s.enter l) :=
  (State.SilentFrame.enter s l).onward

/-- During a run a write of `CTRL` starts nothing. -/
theorem ctrlWriteOp_onward {v : Word} (hr : s.inRun = true) (h : ctrlWriteOp v s = .next u) :
    s.Onward u := by
  have hgo : s.goBit = s := if_pos hr
  cases h
  rw [hgo, ite_self]
  split
  · exact .of_eq (by simp) (by simp) (by simp) (by simp) (by simp)
  · exact .of_eq rfl rfl rfl rfl rfl

/-- During a run no instruction takes anything back. -/
theorem exec_onward {i : Instr} (hr : s.inRun = true) (h : exec i s = .next u) : s.Onward u := by
  cases i with
  | curLevelClk | curLevelDout | curLevelDin | curLevelEn => exact levelOp_onward h
  | curPosClk | curPosDout | curPosDin | curPosEn => exact posOp_onward h
  | curHasMoreClk | curHasMoreDout | curHasMoreDin | curHasMoreEn => exact hasMoreOp_onward h
  | curAdvEdgeClk | curAdvEdgeDout | curAdvEdgeDin | curAdvEdgeEn => exact advEdgeOp_onward h
  | curAdvToClk | curAdvToDout | curAdvToDin | curAdvToEn => exact advToOp_onward h
  | curNextEdgeClk | curNextEdgeDout | curNextEdgeDin | curNextEdgeEn => exact nextEdgeOp_onward h
  | curWouldCrossClk | curWouldCrossDout | curWouldCrossDin | curWouldCrossEn =>
    exact wouldCrossOp_onward h
  | accAddBitDout0 | accAddBitDout1 | accAddBitDin0 | accAddBitDin1 => exact accAddBitOp_onward h
  | poll => exact pollOp_onward h
  | emitStart | emitResult | emitMarkerError => cases h; exact .withReg (.emit s _ _)
  | emitError => cases h; exact .withReg (.withReg (.emit s _ _))
  | emitDisable => cases h; exact .withReg (.emit s _ _)
  | emitMarkerUp | emitMarkerDown => exact emitBitMarkerOp_onward h
  | procRun | procSetup | procResync | procAdvActiveEnable | procNextActiveEdge | procGetWord
  | procSampleData => cases h; exact .enter s _
  | procRaceCheck e => cases h; exact (State.SilentFrame.enterRace s e).onward
  | wrCtrl | go | cancel => exact ctrlWriteOp_onward hr h
  | accResetDout | accResetDin | rdCfg | wrCfg | rdCtrl | rdStatus | wrStatus | rdRsvd | wrRsvd =>
    cases h; exact .of_eq rfl rfl rfl rfl rfl

theorem execCode_onward {c : Code} (hr : s.inRun = true) (h : execCode c s = .next u) :
    s.Onward u := by
  unfold execCode at h; split at h
  · exact exec_onward hr h
  · cases h

/-! ## A decoder step -/

theorem proceed_eq_next {t : State} {o : Out} {after : State → Out}
    (h : proceed o after = .next t) :
    ∃ u, o = .next u ∧
      ((u.runState = .running ∧ after u = .next t) ∨ (u.runState ≠ .running ∧ t = u)) := by
  cases o with
  | next u =>
    simp only [proceed] at h
    split at h
    case isTrue hr => exact ⟨u, rfl, .inl ⟨hr, h⟩⟩
    case isFalse hr => cases h; exact ⟨_, rfl, .inr ⟨hr, rfl⟩⟩
  | fault | refused => cases h

theorem inRun_of_running (h : s.runState = .running) : s.inRun = true := by
  simp [State.inRun, h]

theorem State.Performed.running {xs : List Field} (h : s.Performed xs u) (hr : s.inRun = true) :
    u.runState = .running := by
  rw [h.runState]
  cases hs : s.runState <;> simp [State.inRun, hs] at hr <;> rfl

/-- A second operation does not wait. -/
theorem exec_second {i : Instr} (hi : isSecond i = true) (h : exec i s = .next u) :
    (∃ code, u = s.internalFault code) ∨ s.Performed (writes i) u := by
  cases i with
  | accAddBitDout0 | accAddBitDout1 | accAddBitDin0 | accAddBitDin1 =>
    cases h; split
    · exact .inl ⟨_, rfl⟩
    · exact .inr (.setAcc s _ _ _)
  | emitResult =>
    cases h
    exact withReg_ind (P := fun u => (∃ code, u = s.internalFault code) ∨ s.Performed [] u)
      (.inl ⟨_, rfl⟩) fun _ => .inr (.unread s _ _ _ _)
  | _ => cases hi

/-- What a line's operation and the rest of it come to: the operation stops, or it is performed and
the rest of the line goes on. -/
theorem operation_cases {l : Label} {stack : List Point} {code : Code} {after : State → Out}
    (hin : s.InControl) (hl : s.ctlp = .line l :: stack) (hc : line l s = .operation code after)
    (h : proceed (execCode code s) after = .next t) :
    ∃ i, operationAt s.mdir l = some i ∧ decode code = some i ∧
      ((exec i s = .next t ∧ s.Stopped t) ∨
        ∃ u, exec i s = .next u ∧ s.Performed (writes i) u ∧ u.runState = .running ∧
          after u = .next t) := by
  have hr : s.inRun = true := hin.running.mpr (by simp [hl])
  obtain ⟨i, hop, hi⟩ := line_operation hin.direction hc
  rw [execCode_of_decode hi] at h
  obtain ⟨u, hu, hcase⟩ := proceed_eq_next h
  refine ⟨i, hop, hi, ?_⟩
  rcases exec_result (operationAt_isOperation hop) hu with hstop | ⟨hperf, -⟩
  · rcases hcase with ⟨hrun, -⟩ | ⟨-, rfl⟩
    · exact absurd hrun hstop.not_running
    · exact .inl ⟨hu, hstop⟩
  · rcases hcase with ⟨hrun, h⟩ | ⟨hstop, -⟩
    · exact .inr ⟨u, hu, hperf, hrun, h⟩
    · exact absurd (hperf.running hr) hstop

/-- The step at the control point is nothing between runs, and a line's operation in a run. -/
theorem pointStep_cases (hin : s.InControl) (h : pointStep s = .next t) :
    (s.ctlp = [] ∧ t = s) ∨ ∃ l stack code after, s.ctlp = .line l :: stack ∧
      line l s = .operation code after ∧ proceed (execCode code s) after = .next t := by
  match hl : s.ctlp with
  | [] =>
    simp only [pointStep, hl] at h
    split at h <;> cases h
    exact .inl ⟨rfl, rfl⟩
  | .word code :: stack =>
    have hok := hin.stack
    rw [hl, stackOk_word] at hok
    cases hok
  | .line l :: stack =>
    cases hc : line l s with
    | silent u => simp [pointStep, hl, hc] at h
    | operation code after =>
      rw [pointStep_operation hl hc] at h
      exact .inr ⟨l, stack, code, after, rfl, hc, h⟩

theorem line_rest_leads {l : Label} {code : Code} {after : State → Out}
    (hl : line l s = .operation code after) (hr : u.runState = .running)
    (h : after u = .next t) : u.Leads l t := by
  rcases line_rest hl u with ⟨v, hv, -, hleads⟩ | ⟨i, m, hi, hm, hv⟩
  · cases hv.symm.trans h; exact hleads
  · rw [hv] at h
    obtain ⟨w, hw, hcase⟩ := proceed_eq_next h
    rcases exec_second hi hw with ⟨b, rfl⟩ | hperf
    · rcases hcase with ⟨hrun, -⟩ | ⟨-, rfl⟩
      · cases hrun
      · exact .fault b
    · have hrun := hperf.running (inRun_of_running hr)
      rcases hcase with ⟨-, h⟩ | ⟨hstop, -⟩
      · cases h; exact .goto (hrun.trans hr.symm) hm
      · exact absurd hrun hstop

theorem line_rest_onward {l : Label} {code : Code} {after : State → Out}
    (hl : line l s = .operation code after) (hr : u.runState = .running)
    (h : after u = .next t) : u.Onward t := by
  rcases line_rest hl u with ⟨v, hv, hf, -⟩ | ⟨i, m, -, -, hv⟩
  · rw [hv] at h; cases h; exact hf.onward
  · rw [hv] at h
    obtain ⟨w, hw, ⟨-, h⟩ | ⟨-, rfl⟩⟩ := proceed_eq_next h
    · cases h
      exact (exec_onward (inRun_of_running hr) hw).trans (State.SilentFrame.goto w m).onward
    · exact exec_onward (inRun_of_running hr) hw

/-- A state from which control finds no instruction between runs. -/
def State.InHand (s : State) : Prop := s.inRun = true ∨ s.ctlp = []

theorem wordStep_onward {code : Code} {stack : List Point} (hr : s.inRun = true)
    (h : wordStep code stack s = .next t) : s.Onward t := by
  have hstart : s.Onward { s with ctlp := stack } := .of_eq rfl rfl rfl rfl rfl
  unfold wordStep at h
  split at h
  case h_1 u hu =>
    have hexec := hstart.trans (execCode_onward hr hu)
    split at h <;> cases h
    · exact hexec.trans (.of_eq rfl rfl rfl rfl rfl)
    · exact hexec
  case h_2 | h_3 => cases h

theorem pointStep_onward (hin : s.InHand) (h : pointStep s = .next t) : s.Onward t := by
  match hl : s.ctlp with
  | [] =>
    simp only [pointStep, hl] at h
    split at h <;> cases h
    exact .refl s
  | .word code :: stack =>
    rw [pointStep_word hl] at h
    exact wordStep_onward (hin.resolve_right (by simp [hl])) h
  | .line l :: stack =>
    have hr := hin.resolve_right (by simp [hl])
    cases hc : line l s with
    | silent u => simp [pointStep, hl, hc] at h
    | operation code after =>
      rw [pointStep_operation hl hc] at h
      obtain ⟨u, hu, ⟨hrun, h⟩ | ⟨-, rfl⟩⟩ := proceed_eq_next h
      · exact (execCode_onward hr hu).trans (line_rest_onward hc hrun h)
      · exact execCode_onward hr hu

/-- What every line without an operation keeps where control is at it, going through them keeps. -/
theorem settle_keeps_atLine {P : State → Prop}
    (hP : ∀ l stack s t, s.ctlp = .line l :: stack → line l s = .silent t → P s → P t) (n : Nat)
    (hs : P s) : P (settle n s) := by
  induction n generalizing s with
  | zero => exact hs
  | succ n ih =>
    by_cases hset : s.Settled
    · rwa [settle_of_settled hset]
    · unfold State.Settled at hset; push Not at hset
      obtain ⟨l, stack, t, hl, ht⟩ := hset
      rw [settle_silent hl ht]
      exact ih (hP l stack s t hl ht hs)

theorem settle_inHand (n : Nat) (hs : s.InHand) : (settle n s).InHand := by
  refine settle_keeps_atLine (fun l stack s t hl ht hs => ?_) n hs
  rcases line_silent_leads ht with hnil | ⟨hr, -⟩
  · exact .inr hnil
  · exact .inl (by rw [State.inRun, hr]; exact hs.resolve_right (by simp [hl]))

theorem decoderStep_onward (h : decoderStep s = .next t) : s.Onward t := by
  unfold decoderStep at h
  split at h
  case isTrue hr =>
    exact (settle_frame settleFuel s).onward.trans
      (pointStep_onward (settle_inHand settleFuel (.inl hr)) h)
  case isFalse => cases h; exact .refl s

/-! ## An input -/

theorem ctrlWriteOp_sink {v : Word} (h : ctrlWriteOp v s = .next t) : t.sink = s.sink := by
  have hgo : s.goBit.sink = s.sink := by
    unfold State.goBit; split
    · rfl
    · split <;> rfl
  cases h
  split <;> split <;> simp [hgo]

/-- A host access emits no record. -/
theorem hostInput_sink {a : HostAccess} (h : hostInput a s = .next t) : t.sink = s.sink := by
  unfold hostInput at h
  split at h
  case h_2 => cases h; rfl
  case h_1 i _ hi =>
    rcases decodeHa_cases (show decodeHa _ _ = some i from hi) with
      rfl | rfl | rfl | rfl | rfl | rfl | rfl | rfl
    case inr.inr.inr.inl => exact ctrlWriteOp_sink (exec_ctrlWrite _ s ▸ h)
    all_goals cases h; rfl

theorem hostInput_onward {a : HostAccess} (hr : s.inRun = true) (h : hostInput a s = .next t) :
    s.Onward t := by
  unfold hostInput at h
  split at h
  · exact exec_onward hr h
  · cases h; exact .of_eq rfl rfl rfl rfl rfl

theorem growInput_onward {n : Nat} (h : growInput c n s = .next t) : s.Onward t := by
  cases h
  refine ⟨rfl, rfl, fun _ => BitVec.le_refl _, fun d => ?_, List.prefix_refl _⟩
  by_cases hd : d = c
  · subst hd; rw [PerChannel.get_set_self]; exact Nat.le_max_left _ _
  · rw [PerChannel.get_set_of_ne _ _ _ _ hd]

theorem inputStep_sink {e : Input} (h : inputStep e s = .next t) : s.sink <+: t.sink := by
  cases e with
  | decoder => exact (decoderStep_onward h).sink
  | host a => exact hostInput_sink h ▸ List.prefix_refl _
  | bus addr write size data =>
    simp only [inputStep, busInput] at h
    split at h
    · exact hostInput_sink h ▸ List.prefix_refl _
    · cases h; exact List.prefix_refl _
  | grow c n => exact (growInput_onward h).sink
  | present cap hz =>
    simp only [inputStep, presentInput] at h
    split at h
    · cases h
    · split at h <;> cases h
      exact List.prefix_refl _
  | rst => cases h; exact List.prefix_refl _

theorem inputStep_onward {e : Input} (hr : s.inRun = true) (he : e ≠ .rst)
    (h : inputStep e s = .next t) : s.Onward t := by
  cases e with
  | decoder => exact decoderStep_onward h
  | host a => exact hostInput_onward hr h
  | bus addr write size data =>
    simp only [inputStep, busInput] at h
    split at h
    · exact hostInput_onward hr h
    · cases h; exact .refl s
  | grow c n => exact growInput_onward h
  | present cap hz => rw [inputStep, presentInput_inRun hr] at h; cases h
  | rst => exact absurd rfl he

/-- Settles O55, by the schedule's next entry. -/
theorem nothingGoesBack : Obligations.NothingGoesBack := by
  unfold Obligations.NothingGoesBack
  intro s t h
  have hsink : s.sink <+: t.sink := by
    rcases step_cases h with ⟨-, h⟩ | ⟨e, rest, -, h⟩
    · exact (decoderStep_onward h).sink
    · exact inputStep_sink (s := { s with env := rest }) h
  obtain ⟨rs, hrs⟩ := hsink
  refine ⟨⟨rs, hrs.symm⟩, fun hr hrst => ?_⟩
  have honward : s.Onward t := by
    rcases step_cases h with ⟨-, h⟩ | ⟨e, rest, henv, h⟩
    · exact decoderStep_onward h
    · have hstart : s.Onward { s with env := rest } := .of_eq rfl rfl rfl rfl rfl
      exact hstart.trans (inputStep_onward hr (fun he => hrst rest (he ▸ henv)) h)
  exact ⟨honward.cfgl, honward.cap, fun c => ⟨honward.pos c, honward.hz c⟩⟩

end

end Sys2Proof.Machine
end

section
/-! The data cursors stay behind the clock cursor: line by line, and over every input. -/

namespace Sys2Proof.Machine

open Sys2Proof

/-! ## The data cursors stay behind the clock (20_memory.md R62) -/

/-- The labels of `SAMPLE_DATA` at which `CS` holds the clock's position. -/
def samplingLabels : List Label := [.sd2, .sd3, .sd4, .sd5, .sd6]

/-- Each present data cursor is at or before the clock cursor. -/
def State.CursorsBehind (s : State) : Prop :=
  ∀ a, s.present (accChannel a) = true → s.pos.get (accChannel a) ≤ s.pos.clk

theorem dataBehind_iff (s : State) : s.DataBehind ↔
    (s.inRun = true → s.CursorsBehind ∧ (s.isAt samplingLabels → s.cs = .holding s.pos.clk)) := by
  constructor
  · intro h hr
    obtain ⟨hdout, hdin, hcs⟩ := h hr
    exact ⟨fun a => by cases a; exacts [hdout, hdin], hcs⟩
  · intro h hr
    obtain ⟨hbehind, hcs⟩ := h hr
    exact ⟨hbehind .dout, hbehind .din, hcs⟩

section
variable {s t u : State} {l : Label} {stack : List Point} {c : Channel} {code : Code}
  {after : State → Out}

theorem State.DataBehind.of_same (h : s.DataBehind) (hrun : t.inRun = true → s.inRun = true)
    (hcfgl : t.cfgl = s.cfgl) (hpos : t.pos = s.pos) (hcs : t.cs = s.cs) (hctlp : t.ctlp = s.ctlp) :
    t.DataBehind := by
  intro hr
  have hs := h (hrun hr)
  simpa only [State.present, State.isAt, State.top, hcfgl, hpos, hcs, hctlp] using hs

theorem flow_sampling {m : Label} (hm : m ∈ flow l) (hs : m ∈ samplingLabels) :
    l = .sd1 ∨ l ∈ samplingLabels := by
  have htable : ∀ m ∈ flow l, m ∈ samplingLabels → l = .sd1 ∨ l ∈ samplingLabels := by
    cases l <;> decide
  exact htable m hm hs

theorem mayReturnTo_sampling {p : BitVec 5} {m : Label} (h : mayReturnTo p m = true) :
    m ∉ samplingLabels := by
  cases m <;> simp_all [mayReturnTo, samplingLabels]

/-- Only from `SD.1` and from within does control come to the labels after `SD.1`. -/
theorem State.Leads.sampling (h : s.Leads l t) (hl : s.ctlp = .line l :: stack)
    (hok : stackOk s.ctlp = true) (ht : t.isAt samplingLabels) : l = .sd1 ∨ l ∈ samplingLabels := by
  obtain ⟨m, hm, htop⟩ := ht
  rcases h with hnil | ⟨-, ⟨k, hk, htop'⟩ | ⟨-, hret⟩ | ⟨-, hstay⟩⟩
  · simp [State.top, hnil] at htop
  · cases htop.symm.trans htop'
    exact flow_sampling hk hm
  · rw [hl, List.tail_cons] at hret
    cases stack with
    | nil => simp [State.top, hret] at htop
    | cons p rest =>
      cases p with
      | word c => simp [State.top, hret] at htop
      | line k =>
        rw [State.top_of_ctlp hret] at htop
        cases htop
        exact absurd hm (mayReturnTo_sampling (stackOk_caller (hl ▸ hok)).1)
  · rw [State.top_of_ctlp (hstay.trans hl)] at htop
    cases htop
    exact .inr hm

theorem noteSample_cs (s : State) : s.noteSample.cs = s.cs := by
  unfold State.noteSample; split
  · exact withReg_ind (P := fun u => u.cs = s.cs) rfl fun _ => rfl
  · rfl

theorem line_silent_sampling (hl : l ∈ samplingLabels) (h : line l s = .silent t) :
    t.cs = s.cs := by
  cases l <;> simp [samplingLabels] at hl <;> simp only [line, operate] at h
  case sd2 | sd3 | sd4 | sd5 => split at h <;> cases h; rfl
  case sd6 => cases h; exact noteSample_cs s

/-- A line without an operation keeps the data cursors behind the clock. -/
theorem State.DataBehind.silent (h : s.DataBehind) (hin : s.InControl)
    (hl : s.ctlp = .line l :: stack) (ht : line l s = .silent t) : t.DataBehind := by
  have hf := line_silent_frame ht
  have hr : s.inRun = true := hin.running.mpr (by simp [hl])
  obtain ⟨hbehind, hcs⟩ := (dataBehind_iff s).mp h hr
  refine (dataBehind_iff t).mpr fun _ => ⟨fun a ha => ?_, fun hat => ?_⟩
  · rw [hf.pos]
    exact hbehind a (by rwa [State.present, ← hf.cfgl])
  · rcases (line_silent_leads ht).sampling hl hin.stack hat with rfl | hmem
    · cases ht
    · rw [line_silent_sampling hmem ht, hf.pos]
      exact hcs ⟨l, hmem, State.top_of_ctlp hl⟩

/-! ### An operation and the rest of its line -/

theorem State.Stopped.dataBehind (hs : s.Stopped u) (h : s.DataBehind) (hr : s.inRun = true) :
    u.DataBehind := by
  rcases hs.stops with ⟨-, hctlp⟩ | ⟨hr', -⟩
  · exact h.of_same (fun _ => hr) hs.same.cfgl
      (PerChannel.ext_get _ _ fun c => hs.same.fields (.pos c) (by simp))
      (hs.same.fields (.reg .cs) (by simp)) hctlp
  · exact fun hrun => absurd hrun (by simp [hr'])

/-- Of the lines, only `SD.2` and `SD.4` move a data cursor, to the sample in `CS`. -/
theorem operationAt_moves {d : BitVec 2} {i : Instr} (h : operationAt d l = some i)
    (a : AccSel) : Field.pos (accChannel a) ∉ writes i ∨
      (l ∈ samplingLabels ∧ i = .advTo (accChannel a) .cs) := by
  cases l
  case gw18 =>
    simp only [operationAt, Option.some.injEq] at h
    split at h <;> cases h <;> exact .inl (by simp [writes])
  case sd2 | sd4 =>
    cases h
    cases a <;> simp [writes, accChannel, samplingLabels, Instr.advTo]
  all_goals cases h <;> exact .inl (by cases a <;> decide)

theorem operationAt_sampling {d : BitVec 2} {i : Instr} (h : operationAt d l = some i)
    (hl : l = .sd1 ∨ l ∈ samplingLabels) : Field.pos .clk ∉ writes i := by
  rcases hl with rfl | hl
  · cases h; decide
  · cases l <;> simp [samplingLabels] at hl <;> cases h <;> decide

theorem reg_notMem_writes (r : SampleReg) (i : Instr) : Field.reg r ∉ writes i := by
  cases i <;> simp [writes]

theorem advToOp_pos {r : SampleReg} {b : BitVec 8} (h : advToOp c r b s = .next u) :
    u.pos.get c = s.pos.get c ∨ u.pos.get c = (s.reg r).val := by
  refine onChannel_ind (P := fun u => u.pos.get c = _ ∨ u.pos.get c = _) h (.inl rfl) ?_
  refine withReg_val_ind (P := fun u => u.pos.get c = _ ∨ u.pos.get c = _) (.inl rfl) ?_
  split
  · exact .inl rfl
  · split
    · exact .inr (PerChannel.get_set_self _ _ _)
    · exact .inl (by simp)

theorem exec_advTo (c : Channel) (r : SampleSel) (s : State) :
    ∃ b, exec (.advTo c r) s = advToOp c (selReg r) b s := by
  cases c <;> exact ⟨_, rfl⟩

theorem writes_advTo (c : Channel) (r : SampleSel) : writes (.advTo c r) = [.pos c] := by
  cases c <;> rfl

/-- The operation of a line keeps the data cursors behind the clock. -/
theorem State.CursorsBehind.exec {d : BitVec 2} {i : Instr} (h : s.CursorsBehind)
    (hr : s.inRun = true) (hcs : l ∈ samplingLabels → s.cs = .holding s.pos.clk)
    (hop : operationAt d l = some i) (hu : exec i s = .next u) (hperf : s.Performed (writes i) u) :
    u.CursorsBehind := by
  have honward := exec_onward hr hu
  intro a ha
  have hle := h a (by rwa [State.present, ← honward.cfgl])
  rcases operationAt_moves hop a with hkeep | ⟨hl, rfl⟩
  · rw [hperf.same.fields _ hkeep]
    exact BitVec.le_trans hle (honward.pos .clk)
  · obtain ⟨b, hb⟩ := exec_advTo (accChannel a) .cs s
    have hclk : u.pos.get .clk = s.pos.get .clk :=
      hperf.same.fields (.pos .clk) (by cases a <;> simp [writes_advTo, accChannel])
    change u.pos.get _ ≤ u.pos.get .clk
    rw [hclk]
    rcases advToOp_pos (hb ▸ hu) with hpos | hpos <;> rw [hpos]
    · exact hle
    · change s.cs.val ≤ s.pos.clk
      rw [hcs hl]
      exact BitVec.le_refl _

/-- After `SD.1` the rest of a line leaves `CS`. -/
theorem line_rest_sampling (hl : l ∈ samplingLabels) (hc : line l s = .operation code after)
    (h : after u = .next t) : t.cs = u.cs := by
  have hadd (a : AccSel) (m : Label) (h : addLevel a m u = .next t) : t.cs = u.cs := by
    obtain ⟨b, hb⟩ := exec_accAddBit a u.ansBit u
    obtain ⟨v, hv, hcase⟩ := proceed_eq_next h
    have hcs : v.cs = u.cs := by
      rw [hb] at hv
      cases hv
      split <;> simp
    rcases hcase with ⟨-, h⟩ | ⟨-, rfl⟩
    · cases h; exact hcs
    · exact hcs
  cases l <;> simp [samplingLabels] at hl <;> simp only [line, operate] at hc
  case sd2 | sd4 => split at hc <;> cases hc; cases h; rfl
  case sd3 | sd5 => split at hc <;> cases hc; exact hadd _ _ h
  case sd6 => cases hc

theorem exec_curPosClk (h : exec .curPosClk s = .next u) : u.ansPos = s.pos.clk := by
  cases h; rfl

/-- What a line's operation leads to keeps the data cursors behind the clock. -/
theorem State.DataBehind.operation (h : s.DataBehind) (hin : s.InControl)
    (hl : s.ctlp = .line l :: stack) (hc : line l s = .operation code after)
    (ht : proceed (execCode code s) after = .next t) : t.DataBehind := by
  have hr : s.inRun = true := hin.running.mpr (by simp [hl])
  obtain ⟨hbehind, hcs⟩ := (dataBehind_iff s).mp h hr
  replace hcs (hmem : l ∈ samplingLabels) := hcs ⟨l, hmem, State.top_of_ctlp hl⟩
  obtain ⟨i, hop, -, ⟨-, hstop⟩ | ⟨u, hu, hperf, hrun, hafter⟩⟩ := operation_cases hin hl hc ht
  case inl => exact hstop.dataBehind h hr
  case inr =>
    have hleads := line_rest_leads hc hrun hafter
    obtain ⟨v, hv, hf⟩ := line_rest_frame hc u
    cases hv.symm.trans hafter
    have hub := hbehind.exec hr hcs hop hu hperf
    refine (dataBehind_iff _).mpr fun _ => ⟨fun a ha => ?_, fun hat => ?_⟩
    · rw [hf.pos]
      exact hub a (by rwa [State.present, ← hf.cfgl])
    · have hfrom := hleads.sampling (hperf.ctlp.trans hl) (hperf.ctlp ▸ hin.stack) hat
      have hclk : u.pos.clk = s.pos.clk :=
        hperf.same.fields (.pos .clk) (operationAt_sampling hop hfrom)
      rw [hf.pos, hclk]
      rcases hfrom with rfl | hmem
      · cases hop; cases hc; cases hafter
        change WorkReg.holding u.ansPos = _
        rw [exec_curPosClk hu]
      · rw [line_rest_sampling hmem hc hafter, ← hcs hmem]
        exact hperf.same.fields (.reg .cs) (reg_notMem_writes .cs i)

theorem decoderStep_dataBehind (hin : s.InControl) (h : s.DataBehind)
    (ht : decoderStep s = .next t) : t.DataBehind := by
  rw [hin.decoderStep_eq] at ht
  obtain ⟨hin, h⟩ : (settle settleFuel s).InControl ∧ (settle settleFuel s).DataBehind :=
    settle_keeps_atLine (P := fun s => s.InControl ∧ s.DataBehind)
      (fun _ _ _ _ hl ht ⟨hin, h⟩ => ⟨hin.silent hl ht, h.silent hin hl ht⟩) settleFuel ⟨hin, h⟩
  generalize settle settleFuel s = u at hin h ht
  rcases pointStep_cases hin ht with ⟨-, rfl⟩ | ⟨l, stack, c, after, hl, hc, ht⟩
  · exact h
  · exact h.operation hin hl hc ht

/-! ### The inputs -/

theorem State.DataBehind.startRun (s : State) : s.startRun.DataBehind := by
  refine (dataBehind_iff _).mpr fun _ => ⟨fun a ha => ?_, fun ⟨l, hl, htop⟩ => ?_⟩
  · rw [State.startRun_pos ha]
    exact BitVec.le_def.mpr (Nat.zero_le _)
  · cases htop
    exact absurd hl (by decide)

theorem ctrlWriteOp_dataBehind {v : Word} (h : s.DataBehind) (ht : ctrlWriteOp v s = .next t) :
    t.DataBehind := by
  have hgo : s.goBit.DataBehind := by
    unfold State.goBit; split
    · exact h
    · split
      · exact .startRun s
      · exact fun hr => by cases hr
  have hcancel {u : State} (hu : u.DataBehind) : u.cancelBit.DataBehind :=
    hu.of_same (by simp [State.inRun]) (by simp) (by simp) (by simp) (by simp)
  have haccepted {u : State} (hu : u.DataBehind) : u.accepted.DataBehind :=
    hu.of_same id rfl rfl rfl rfl
  cases ht
  split <;> split
  · exact haccepted (hcancel hgo)
  · exact haccepted (hcancel h)
  · exact haccepted hgo
  · exact haccepted h

theorem hostInput_dataBehind {a : HostAccess} (h : s.DataBehind)
    (ht : hostInput a s = .next t) : t.DataBehind := by
  unfold hostInput at ht
  split at ht
  case h_2 => cases ht; exact h.of_same id rfl rfl rfl rfl
  case h_1 i _ hi =>
    rcases decodeHa_cases (show decodeHa _ _ = some i from hi) with
      rfl | rfl | rfl | rfl | rfl | rfl | rfl | rfl
    case inr.inr.inr.inl => exact ctrlWriteOp_dataBehind h (exec_ctrlWrite _ s ▸ ht)
    all_goals cases ht; exact h.of_same id rfl rfl rfl rfl

/-- Settles O51, by the schedule's next entry; a decoder step goes line by line
(`State.DataBehind.silent`, `State.DataBehind.operation`). -/
theorem dataCursorsBehindClock : Obligations.DataCursorsBehindClock := by
  unfold Obligations.DataCursorsBehindClock
  intro s t hsound h hstep
  have hin := hsound.inControl
  rcases step_cases hstep with ⟨-, ht⟩ | ⟨e, rest, -, ht⟩
  · exact decoderStep_dataBehind hin h ht
  · replace h : ({ s with env := rest } : State).DataBehind := h
    cases e with
    | decoder =>
      exact decoderStep_dataBehind (s := { s with env := rest })
        ⟨hin.stack, hin.running, hin.direction⟩ h ht
    | host a => exact hostInput_dataBehind h ht
    | bus addr write size data =>
      simp only [inputStep, busInput] at ht
      split at ht
      · exact hostInput_dataBehind h ht
      · cases ht; exact h
    | grow c n => cases ht; exact h
    | present cap hz =>
      simp only [inputStep, presentInput] at ht
      split at ht
      · cases ht
      · split at ht <;> cases ht
        exact h
    | rst => cases ht; exact fun hr => by cases hr

end

end Sys2Proof.Machine
end

section
/-! The keys of the records: what bounds the keys to come, read at the label control is at, what an
operation emits, and how the bound moves from line to line. -/

namespace Sys2Proof.Machine

open Sys2Proof

/-! ## What an operation emits (45_events.md R141 to R145) -/

/-- The record an operation emits where it is performed. -/
def recordOf (s : State) : Instr → Option Record
  | .emitStart => some (.start s.cs.val)
  | .emitError => some (.error s.es.val s.cs.val)
  | .emitDisable src => some (.disable (s.reg (disableReg src)).val)
  | .emitResult => some (.result s.fs.val s.pos.clk s.accDout.v s.accDin.v (cfgN s.cfgl))
  | .emitMarkerUp => s.mb[s.k.toNat]?.map fun t => .marker t .up
  | .emitMarkerDown => s.mb[s.k.toNat]?.map fun t => .marker t .down
  | .emitMarkerError => some (.marker s.cs.val .error)
  | _ => none

/-- `u` has received the record of the operation, if it has one and the operation was performed. -/
def State.Emitted (s : State) (r : Option Record) (u : State) : Prop :=
  (u.runState ≠ .running ∧ u.sink = s.sink) ∨
    (u.runState = .running ∧ u.sink = s.sink ++ r.toList)

section
variable {s t u : State} {c : Channel} {r : SampleReg} {code : BitVec 8}

theorem State.Emitted.fault (s : State) (o : Option Record) (code : BitVec 8) :
    s.Emitted o (s.internalFault code) := .inl ⟨nofun, rfl⟩

theorem State.Emitted.quiet (h : u.sink = s.sink) : s.Emitted none u := by
  by_cases hu : u.runState = .running
  · exact .inr ⟨hu, by simpa using h⟩
  · exact .inl ⟨hu, h⟩

theorem onChannel_quiet {f : State → State} (h : onChannel c code s f = .next u)
    (hf : (f s).sink = s.sink) : s.Emitted none u :=
  onChannel_ind h (.fault s none code) (.quiet hf)

theorem withReg_quiet {f : Sample → State} (h : ∀ t, (f t).sink = s.sink) :
    (withReg r code s f).sink = s.sink :=
  withReg_ind (P := fun u => u.sink = s.sink) rfl h

theorem levelOp_quiet (h : levelOp c code s = .next u) : s.Emitted none u :=
  onChannel_quiet h rfl

theorem posOp_quiet (h : posOp c code s = .next u) : s.Emitted none u :=
  onChannel_quiet h rfl

theorem hasMoreOp_quiet (h : hasMoreOp c code s = .next u) : s.Emitted none u :=
  onChannel_quiet h rfl

theorem advEdgeOp_quiet (h : advEdgeOp c code s = .next u) : s.Emitted none u :=
  onChannel_quiet h (by dsimp only; split <;> simp)

theorem advToOp_quiet (h : advToOp c r code s = .next u) : s.Emitted none u :=
  onChannel_quiet h (withReg_quiet fun _ => by split <;> [skip; split] <;> simp)

theorem nextEdgeOp_quiet (h : nextEdgeOp c code s = .next u) : s.Emitted none u :=
  onChannel_quiet h (by dsimp only; split <;> simp)

theorem wouldCrossOp_quiet (h : wouldCrossOp c r code s = .next u) : s.Emitted none u :=
  onChannel_quiet h (withReg_quiet fun _ => by split <;> [skip; split] <;> simp)

theorem accAddBitOp_quiet {a : AccSel} {b : Level} (h : accAddBitOp a b code s = .next u) :
    s.Emitted none u := by
  cases h
  exact .quiet (by split <;> simp)

theorem pollOp_quiet (h : pollOp code s = .next u) : s.Emitted none u := by
  cases h
  exact .quiet (by split <;> rfl)

theorem State.Emitted.emit (hr : s.inRun = true) (code : BitVec 8) (r : Record) :
    s.Emitted (some r) (s.emit code r) :=
  .inr ⟨(State.Performed.unread s code _ _ _).running hr, rfl⟩

theorem State.Emitted.withReg {o : Option Record} {f : Sample → State}
    (h : s.Emitted o (f (s.reg r).val)) : s.Emitted o (withReg r code s f) :=
  withReg_val_ind (.fault s o code) h

theorem emitBitMarkerOp_emitted (hr : s.inRun = true) {kind : MarkerKind}
    (h : emitBitMarkerOp kind code s = .next u) :
    s.Emitted (s.mb[s.k.toNat]?.map fun t => .marker t kind) u := by
  cases h
  cases s.mb[s.k.toNat]? with
  | none => exact .fault s _ code
  | some t =>
    rcases State.Emitted.emit hr code (.marker t kind) with h | h
    · exact .inl h
    · exact .inr h

/-- An operation emits its record where it is performed, and nothing where it stops. -/
theorem exec_emitted {i : Instr} (hop : isOperation i = true) (hr : s.inRun = true)
    (h : exec i s = .next u) : s.Emitted (recordOf s i) u := by
  cases i with
  | curLevelClk | curLevelDout | curLevelDin | curLevelEn => exact levelOp_quiet h
  | curPosClk | curPosDout | curPosDin | curPosEn => exact posOp_quiet h
  | curHasMoreClk | curHasMoreDout | curHasMoreDin | curHasMoreEn => exact hasMoreOp_quiet h
  | curAdvEdgeClk | curAdvEdgeDout | curAdvEdgeDin | curAdvEdgeEn => exact advEdgeOp_quiet h
  | curAdvToClk | curAdvToDout | curAdvToDin | curAdvToEn => exact advToOp_quiet h
  | curNextEdgeClk | curNextEdgeDout | curNextEdgeDin | curNextEdgeEn => exact nextEdgeOp_quiet h
  | curWouldCrossClk | curWouldCrossDout | curWouldCrossDin | curWouldCrossEn =>
    exact wouldCrossOp_quiet h
  | accResetDout | accResetDin => cases h; exact .quiet rfl
  | accAddBitDout0 | accAddBitDout1 | accAddBitDin0 | accAddBitDin1 => exact accAddBitOp_quiet h
  | poll => exact pollOp_quiet h
  | emitStart | emitResult | emitMarkerError => cases h; exact .withReg (.emit hr _ _)
  | emitError => cases h; exact .withReg (.withReg (.emit hr _ _))
  | emitDisable src => cases h; exact .withReg (.emit hr _ _)
  | emitMarkerUp | emitMarkerDown => exact emitBitMarkerOp_emitted hr h
  | procRun | procSetup | procResync | procAdvActiveEnable | procNextActiveEdge | procRaceCheck
  | procGetWord | procSampleData | rdCfg | wrCfg | rdCtrl | wrCtrl | rdStatus | wrStatus | rdRsvd
  | wrRsvd | go | cancel => cases hop

end

/-! ## What bounds the keys to come (20_memory.md R58) -/

/-- Which position the key of the last record is not after. -/
inductive KeyPlace where
  /-- every enable transition still ahead -/
  | next
  /-- the enable cursor -/
  | enable
  /-- the clock cursor -/
  | clock
  deriving DecidableEq

/-- That position, with `EN_P` = `en` and `RT` = `rt`. -/
def keyPlace (en rt : Bool) : Label → KeyPlace
  | .run1 | .run2 | .su1 | .rs1 | .ae1 | .ae2 | .na1 | .na2 | .na3 | .ae2n1 | .ae2n2 | .ae2n3 =>
      if en then .next else .clock
  | .rs2 | .rs3 | .rs4 | .rs5 | .rs6 | .rs9 | .ae3 | .ae4 => if en then .enable else .clock
  | .gw6 | .gw15 => if en && rt then .next else .clock
  | _ => .clock

/-- `key` is not after that position. -/
def State.KeyBound (s : State) (key : Sample) : KeyPlace → Prop
  | .next => ∀ t ∈ s.cap.wave.en.edges, s.pos.en < t → key ≤ t
  | .enable => key ≤ s.pos.en
  | .clock => key ≤ s.pos.clk

/-- The labels at which the bits of a word are counted: `GET_WORD`'s loop and what it calls. -/
def inWord (l : Label) : Bool := (progressAt l).isSome || labelProc l == 6

/-- The entries of `MB` still to be emitted at `l`. -/
def State.pending (s : State) : Label → List Sample
  | .gw18 => s.mb.drop s.k.toNat
  | .gw19 => []
  | _ => s.mb

/-- The markers of a word rise, none is past the clock cursor and none of those pending at `l` has
a key below `key`. -/
def State.MarkersKept (s : State) (key : Sample) (l : Label) : Prop :=
  s.mb.Pairwise (· ≤ ·) ∧ (∀ m ∈ s.mb, m ≤ s.pos.clk) ∧ ∀ m ∈ s.pending l, key ≤ m

/-- The labels at which `CS` holds the clock's position where there is no enable channel. -/
def startLabels : List Label := [.rs2, .rs3, .rs9]

/-- `State.keyOk`, with control at `l`. -/
structure State.KeyAt (s : State) (key : Sample) (l : Label) : Prop where
  bound : s.KeyBound key (keyPlace (s.present .en) s.rt l)
  markers : keyPlace (s.present .en) s.rt l = .clock → inWord l = true → s.MarkersKept key l
  start : s.present .en = false → l ∈ startLabels → s.cs = .holding s.pos.clk

section
variable {s t u : State} {key : Sample} {l m : Label} {stack : List Point}

theorem inWord_of_taken (hl : s.top = some l) (h : s.taken ≠ none) : inWord l = true := by
  rw [State.taken_of_top hl] at h
  by_cases h6 : labelProc l = 6
  · simp [inWord, h6]
  · rw [if_neg h6] at h
    cases hp : progressAt l with
    | none => simp [hp] at h
    | some p => simp [inWord, hp]

theorem taken_of_inWord (hl : s.ctlp = .line l :: stack) (hok : stackOk s.ctlp = true)
    (h : inWord l = true) : s.taken ≠ none := by
  rw [State.taken_of_top (State.top_of_ctlp hl)]
  by_cases h6 : labelProc l = 6
  · rw [if_pos h6]
    rw [hl] at hok
    rcases stack with _ | ⟨k | c, rest⟩
    · simp [stackOk, labelProc_of_race h6] at hok
    · have hcaller := mayReturnTo_cases (stackOk_caller hok).1
      rw [labelProc_of_race h6] at hcaller
      have hunder : s.under = some k := by simp [State.under, hl]
      rcases (show k = .gw6 ∨ k = .gw12 ∨ k = .gw15 by simpa using hcaller) with rfl | rfl | rfl <;>
        simp [hunder, State.takenAt]
    · simp [stackOk] at hok
  · rw [if_neg h6]
    cases hp : progressAt l with
    | none => exact absurd (by simpa [inWord, hp] using h) h6
    | some p => simp

theorem pending_iff (htop : s.top = some l) (P : Sample → Prop) :
    (∀ m ∈ s.pending l, P m) ↔ (s.top ≠ some .gw19 →
      ∀ m ∈ (if s.top = some .gw18 then s.mb.drop s.k.toNat else s.mb), P m) := by
  rw [htop]
  cases l <;> simp [State.pending]

theorem markersOk_iff (hl : s.ctlp = .line l :: stack) (hok : stackOk s.ctlp = true) :
    s.markersOk key ↔ (inWord l = true → s.MarkersKept key l) := by
  have htop := State.top_of_ctlp hl
  constructor
  · intro h hw
    obtain ⟨hrise, hbehind, hpending⟩ := h (taken_of_inWord hl hok hw)
    exact ⟨hrise, hbehind, (pending_iff htop _).mpr hpending⟩
  · intro h ht
    obtain ⟨hrise, hbehind, hpending⟩ := h (inWord_of_taken htop ht)
    exact ⟨hrise, hbehind, (pending_iff htop _).mp hpending⟩

/-- What `State.keyOk` says at `l`. -/
theorem keyOk_iff (hl : s.ctlp = .line l :: stack) (hok : stackOk s.ctlp = true) :
    s.keyOk key ↔ s.KeyAt key l := by
  have hm := markersOk_iff (key := key) hl hok
  have htop := State.top_of_ctlp hl
  have hat : s.isAt startLabels ↔ l ∈ startLabels :=
    ⟨fun h => List.contains_iff_mem.mp (contains_of_isAt hl h), fun h => ⟨l, h, htop⟩⟩
  have hiff : s.keyOk key ↔
      s.KeyBound key (keyPlace (s.present .en) s.rt l) ∧
      (keyPlace (s.present .en) s.rt l = .clock → s.markersOk key) ∧
      (s.present .en = false → l ∈ startLabels → s.cs = .holding s.pos.clk) := by
    unfold State.keyOk
    rw [htop, ← hat]
    cases hen : s.present .en with
    | false =>
      have hplace : keyPlace false s.rt l = .clock := by cases l <;> rfl
      simp [hplace, State.KeyBound, startLabels, and_assoc]
    | true =>
      cases l
      case gw6 | gw15 => cases s.rt <;> simp [keyPlace, State.KeyBound]
      all_goals simp [keyPlace, State.KeyBound]
  rw [hiff, hm]
  exact ⟨fun ⟨h₁, h₂, h₃⟩ => ⟨h₁, h₂, h₃⟩, fun ⟨h₁, h₂, h₃⟩ => ⟨h₁, h₂, h₃⟩⟩

end

end Sys2Proof.Machine
end

section
/-! How the bound on the keys to come moves: from a state to one that has gone on, to where control
goes, and over a line's operation. -/

namespace Sys2Proof.Machine

open Sys2Proof

/-! ## How the bound moves -/

/-- What bounds the keys is the same but for the clock cursor, which may have gone on. -/
structure State.KeyFrame (s u : State) : Prop where
  cfgl : u.cfgl = s.cfgl
  cap : u.cap = s.cap
  en : u.pos.en = s.pos.en
  clk : s.pos.clk ≤ u.pos.clk
  mb : u.mb = s.mb

/-- The markers kept at `l` are kept at `m`. -/
def keepsMarkers (l m : Label) : Bool :=
  !inWord m || (inWord l && (m == .gw19 || (l != .gw18 && l != .gw19)))

section
variable {s t u v : State} {key : Sample} {l m e f : Label} {stack : List Point}

theorem State.KeyFrame.refl (s : State) : s.KeyFrame s := ⟨rfl, rfl, rfl, BitVec.le_refl _, rfl⟩

theorem State.KeyFrame.trans (h : s.KeyFrame u) (k : u.KeyFrame v) : s.KeyFrame v :=
  ⟨k.cfgl.trans h.cfgl, k.cap.trans h.cap, k.en.trans h.en, BitVec.le_trans h.clk k.clk,
    k.mb.trans h.mb⟩

theorem State.RestFrame.keyFrame (h : s.RestFrame u) (hmb : u.mb = s.mb) : s.KeyFrame u :=
  ⟨h.cfgl, h.cap, by rw [h.pos], by rw [h.pos]; exact BitVec.le_refl _, hmb⟩

theorem State.KeyFrame.setReg (s : State) (r : SampleReg) (v : Sample) :
    s.KeyFrame (s.setReg r v) :=
  ⟨by simp, by simp, by simp, by simp, by simp⟩

theorem State.KeyBound.frame {p : KeyPlace} (h : s.KeyBound key p) (hf : s.KeyFrame u) :
    u.KeyBound key p := by
  cases p with
  | next => simpa only [State.KeyBound, hf.cap, hf.en] using h
  | enable => simpa only [State.KeyBound, hf.en] using h
  | clock => exact BitVec.le_trans h hf.clk

theorem pending_subset (s : State) (l : Label) : s.pending l ⊆ s.mb := by
  cases l
  case gw18 => exact fun _ => List.mem_of_mem_drop
  case gw19 => exact List.nil_subset _
  all_goals exact List.Subset.refl _

theorem pending_eq_mb (h₁ : l ≠ .gw18) (h₂ : l ≠ .gw19) : s.pending l = s.mb := by
  cases l
  case gw18 | gw19 => contradiction
  all_goals rfl

theorem State.MarkersKept.move (h : s.MarkersKept key l) (hf : s.KeyFrame u)
    (hk : m = .gw19 ∨ (l ≠ .gw18 ∧ l ≠ .gw19)) : u.MarkersKept key m := by
  obtain ⟨hrise, hbehind, hpending⟩ := h
  refine ⟨hf.mb ▸ hrise, fun x hx => BitVec.le_trans (hbehind x (hf.mb ▸ hx)) hf.clk,
    fun x hx => ?_⟩
  rcases hk with rfl | ⟨h₁, h₂⟩
  · cases hx
  · exact hpending x (pending_eq_mb h₁ h₂ ▸ hf.mb ▸ pending_subset u m hx)

/-- The bound at `l` is the bound at `m`, where the two bound by the same position. -/
theorem State.KeyAt.move (h : s.KeyAt key l) (hf : s.KeyFrame u)
    (hplace : keyPlace (s.present .en) u.rt m = keyPlace (s.present .en) s.rt l)
    (hkeeps : keepsMarkers l m = true)
    (hstart : u.present .en = false → m ∈ startLabels → u.cs = .holding u.pos.clk := by
      exact fun _ h => absurd h (by decide)) : u.KeyAt key m := by
  have hen : u.present .en = s.present .en := by rw [State.present, hf.cfgl, State.present]
  refine ⟨hen ▸ hplace ▸ h.bound.frame hf, fun hclock hw => ?_, hstart⟩
  rw [hen, hplace] at hclock
  simp only [keepsMarkers, hw, Bool.not_true, Bool.false_or, Bool.and_eq_true, Bool.or_eq_true,
    beq_iff_eq, bne_iff_ne] at hkeeps
  exact (h.markers hclock hkeeps.1).move hf hkeeps.2

theorem State.KeyAt.of_enable (p : KeyPlace) (hen : s.present .en = true)
    (hplace : keyPlace true s.rt l = p) (hb : s.KeyBound key p) (hp : p ≠ .clock := by decide) :
    s.KeyAt key l := by
  subst hplace
  exact ⟨hen ▸ hb, fun hclock => absurd (hen ▸ hclock) hp, fun hno => absurd hen (by simp [hno])⟩

theorem State.KeyAt.of_clock (hplace : keyPlace (s.present .en) s.rt l = .clock)
    (hb : key ≤ s.pos.clk) (hw : inWord l = true → s.MarkersKept key l) (hl : l ∉ startLabels) :
    s.KeyAt key l :=
  ⟨hplace ▸ hb, fun _ => hw, fun _ h => absurd h hl⟩

theorem State.KeyAt.outsideWord (hplace : keyPlace (s.present .en) s.rt l = .clock)
    (hb : key ≤ s.pos.clk)
    (hl : inWord l = false ∧ l ∉ startLabels := by decide) : s.KeyAt key l :=
  .of_clock hplace hb (fun hw => by simp [hl.1] at hw) hl.2

/-! ### Where control goes -/

/-- The bound holds at the label control is at, if it is at one. -/
def State.KeyHere (s : State) (key : Sample) : Prop :=
  ∀ l stack, s.ctlp = .line l :: stack → s.KeyAt key l

theorem State.KeyHere.ended (h : s.ctlp = []) : s.KeyHere key := by
  intro l stack hl
  cases h.symm.trans hl

theorem State.KeyAt.here (h : s.KeyAt key l) (hl : s.ctlp = .line l :: stack) : s.KeyHere key := by
  intro m rest hm
  cases hl.symm.trans hm
  exact h

theorem State.KeyAt.withStack (h : u.KeyAt key l) (ctlp : List Point) :
    ({ u with ctlp := ctlp } : State).KeyAt key l :=
  ⟨h.bound, h.markers, h.start⟩

theorem State.KeyAt.goto (h : u.KeyAt key m) : (u.goto m).KeyHere key :=
  (h.withStack _).here rfl

theorem State.KeyAt.enter (h : u.KeyAt key e) : (u.enter e).KeyHere key := by
  unfold State.enter; split
  · exact (h.withStack _).here rfl
  · exact .ended rfl

theorem State.KeyAt.call (h : u.KeyAt key e) : (u.call f e).KeyHere key :=
  (h.withStack _).enter

theorem State.KeyHere.ret (hs : s.InLine l stack) (hl : u.ctlp = .line l :: stack)
    (h : ∀ m, mayReturnTo (placeOf l) m = true → u.KeyAt key m) : u.ret.KeyHere key := by
  intro m rest hm
  rw [State.ret_ctlp, hl, List.tail_cons] at hm
  exact (h m (stackOk_caller (hm ▸ hs.stackOk)).1).withStack _

/-! ### A line's operation -/

/-- The key of the last record, after one more record or none. -/
def keyAfter (key : Sample) (o : Option Record) : Sample := o.elim key Record.key

/-- From `s` to `t` no record with a key below the last one's is emitted, and none can follow. -/
def State.Follows (s : State) (key : Sample) (t : State) : Prop :=
  ∃ rs, t.sink = s.sink ++ rs ∧ (key :: rs.map Record.key).Pairwise (· ≤ ·) ∧
    t.KeyHere ((key :: rs.map Record.key).getLastD key)

theorem State.Follows.of_option {o : Option Record} (hsink : t.sink = s.sink ++ o.toList)
    (hle : ∀ r, o = some r → key ≤ r.key) (hk : t.KeyHere (keyAfter key o)) : s.Follows key t := by
  refine ⟨o.toList, hsink, ?_, ?_⟩
  · cases o with
    | none => simp
    | some r => simpa using hle r rfl
  · cases o <;> exact hk

/-- Control is at the line `l` of a run in good order, and `key` bounds the keys to come. -/
structure State.Ordered (s : State) (l : Label) (stack : List Point) (key : Sample) : Prop where
  line : s.InLine l stack
  behind : s.DataBehind
  keyAt : s.KeyAt key l

/-- Wherever the line leaves control, no key has gone back and none can follow. -/
def Line.Orders (s : State) (key : Sample) : Line → Prop
  | .silent t => t.KeyHere key
  | .operation c after => ∀ t, proceed (execCode c s) after = .next t → s.Follows key t

variable {xs : List Field} {c : Code} {after : State → Out} {i : Instr} {o : Option Record}

theorem State.Mid.keyFrame (h : s.Mid l stack xs u) (hon : s.Onward u)
    (hx : .pos .en ∉ xs ∧ .mb ∉ xs := by decide) : s.KeyFrame u :=
  ⟨h.same.cfgl, h.same.cap, h.same.fields (.pos .en) hx.1, hon.pos .clk, h.same.fields .mb hx.2⟩

theorem State.Stopped.keyHere (hs : s.Stopped u) (hl : s.ctlp = .line l :: stack)
    (h : s.KeyAt key l) : u.KeyHere key := by
  rcases hs.stops with ⟨-, hctlp⟩ | ⟨-, hctlp⟩
  case inr => exact .ended hctlp
  case inl =>
    have hclk : u.pos.clk = s.pos.clk := hs.same.fields (.pos .clk) (by decide)
    have hmb : u.mb = s.mb := hs.same.fields .mb (by decide)
    have hk : u.k = s.k := hs.same.fields .k (by decide)
    have hrt : u.rt = s.rt := hs.same.fields .rt (by decide)
    have hen : u.present .en = s.present .en := by rw [State.present, hs.same.cfgl, State.present]
    have hf : s.KeyFrame u := ⟨hs.same.cfgl, hs.same.cap, hs.same.fields (.pos .en) (by decide),
      by rw [hclk]; exact BitVec.le_refl _, hmb⟩
    have hpending : u.pending l = s.pending l := by cases l <;> simp [State.pending, hmb, hk]
    refine State.KeyAt.here ⟨?_, fun hclock hw => ?_, fun hno hl => ?_⟩ (hctlp.trans hl)
    · rw [hen, hrt]
      exact h.bound.frame hf
    · rw [hen, hrt] at hclock
      obtain ⟨hrise, hbehind, hpend⟩ := h.markers hclock hw
      exact ⟨hmb ▸ hrise, hmb ▸ hclk ▸ hbehind, hpending ▸ hpend⟩
    · rw [hclk, show u.cs = s.cs from hs.same.fields (.reg .cs) (by decide)]
      exact h.start (hen ▸ hno) hl

/-- A line's operation: only what was performed goes on, with its record in the sink. -/
theorem State.Ordered.operation (h : s.Ordered l stack key) (hc : decode c = some i)
    (hop : isOperation i = true)
    (hafter : ∀ u, exec i s = .next u → s.Performed (writes i) u → u.runState = .running →
      u.sink = s.sink ++ (recordOf s i).toList → ∀ t, after u = .next t → s.Follows key t) :
    (Line.operation c after).Orders s key := by
  intro t ht
  rw [execCode_of_decode hc] at ht
  obtain ⟨u, hu, hcase⟩ := proceed_eq_next ht
  have hemit := exec_emitted hop h.line.run hu
  rcases exec_result hop hu with hstop | ⟨hperf, -⟩
  · rcases hcase with ⟨hrun, -⟩ | ⟨hnot, rfl⟩
    · exact absurd hrun hstop.not_running
    · obtain ⟨-, hsink⟩ := hemit.resolve_right fun hrun => hnot hrun.1
      exact .of_option (o := none) (by simpa using hsink) nofun
        (hstop.keyHere h.line.ctlp h.keyAt)
  · have hrun := hperf.running h.line.run
    obtain ⟨-, hsink⟩ := hemit.resolve_left fun hnot => hnot.1 hrun
    rcases hcase with ⟨-, ht⟩ | ⟨hnot, -⟩
    · exact hafter u hu hperf hrun hsink t ht
    · exact absurd hrun hnot

/-- An operation followed by register writes and one branch. -/
theorem State.Ordered.operate (h : s.Ordered l stack key) {f : State → State}
    {Q : State → Prop} (hc : decode c = some i) (hop : isOperation i = true)
    (hrec : recordOf s i = o) (hle : ∀ r, o = some r → key ≤ r.key)
    (hres : ∀ u, exec i s = .next u → s.Result xs Q u) (hsink : ∀ u, (f u).sink = u.sink)
    (hafter : ∀ u, s.Mid l stack xs u → s.Onward u → Q u → (f u).KeyHere (keyAfter key o)) :
    (Machine.operate c f).Orders s key := by
  refine h.operation hc hop fun u hu _ hrun hu' t ht => ?_
  cases ht
  obtain ⟨hperf, hq⟩ := (hres u hu).resolve_left fun hstop => hstop.not_running hrun
  exact .of_option (hrec ▸ (hsink u).trans hu') hle
    (hafter u (h.line.performed hperf).2 (exec_onward h.line.run hu) hq)

end

end Sys2Proof.Machine
end

section
/-! The keys of the records line by line: the lines at which the bound only moves on, and those with
something of their own to say. -/

namespace Sys2Proof.Machine

open Sys2Proof

section
variable {s t u : State} {key : Sample} {l m : Label} {stack : List Point} {xs : List Field}
  {c : Code} {after : State → Out}

/-! ## Lines at which the bound only moves on -/

/-- The bound at `l` is the bound at `m`, whatever `EN_P` and `RT`. -/
def sameBound (l m : Label) : Bool :=
  keepsMarkers l m && !startLabels.contains m &&
    [true, false].all fun en => [true, false].all fun rt => keyPlace en rt m == keyPlace en rt l

/-- The lines that emit nothing, move neither the enable cursor nor `RT` nor `MB`, and lead only to
labels with the same bound. -/
def plainLabels : List Label :=
  [.run1, .run2, .run3, .run4, .su1, .rs1, .rs4, .rs7, .ae2, .ae2n1, .ae3, .na1, .rc2, .rc3, .rc4,
   .rc5, .rc7, .gw1, .gw2, .gw5, .gw7, .gw8, .gw9, .gw10, .gw11, .gw14, .gw16, .gw17, .gwRet, .sd1,
   .sd2, .sd3, .sd4, .sd5]

theorem sameBound_of_flow (hl : l ∈ plainLabels) (hm : m ∈ flow l) : sameBound l m = true := by
  have htable : ∀ l ∈ plainLabels, ∀ m ∈ flow l, sameBound l m = true := by decide
  exact htable l hl m hm

theorem sameBound_of_return (hl : l ∈ plainLabels) (hret : returns l = true)
    (hm : mayReturnTo (placeOf l) m = true) : sameBound l m = true := by
  have htable : ∀ l ∈ plainLabels, returns l = true → l = .su1 ∨ l = .gwRet := by decide
  have hcases := mayReturnTo_cases hm
  rcases htable l hl hret with rfl | rfl
  · rw [show m = .run2 by simpa [placeOf, labelProc] using hcases]; decide
  · rw [show m = .run4 by simpa [placeOf, labelProc] using hcases]; decide

theorem State.KeyAt.sameBound (h : s.KeyAt key l) (hf : s.KeyFrame t) (hrt : t.rt = s.rt)
    (hm : sameBound l m = true) : t.KeyAt key m := by
  simp only [Machine.sameBound, Bool.and_eq_true, Bool.not_eq_true', List.all_cons, List.all_nil,
    Bool.and_true, beq_iff_eq] at hm
  obtain ⟨⟨hkeeps, hstart⟩, ⟨h₁, h₂⟩, h₃, h₄⟩ := hm
  refine h.move hf ?_ hkeeps fun _ hmem =>
    absurd hmem (by simpa using hstart)
  rw [hrt]
  cases s.present .en <;> cases s.rt <;> assumption

/-- A line that leads only to labels with the same bound. -/
theorem State.Ordered.plain (h : s.Ordered l stack key) (hl : l ∈ plainLabels)
    (hf : s.KeyFrame t) (hrt : t.rt = s.rt) (hu : u.ctlp = s.ctlp) (hleads : u.Leads l t) :
    t.KeyHere key := by
  intro m rest hm
  refine h.keyAt.sameBound hf hrt ?_
  rcases hleads with hnil | ⟨-, ⟨k, hk, htop⟩ | ⟨hret, htail⟩ | ⟨rfl, -⟩⟩
  · cases hnil.symm.trans hm
  · cases (State.top_of_ctlp hm).symm.trans htop
    exact sameBound_of_flow hl hk
  · rw [hu, h.line.ctlp, List.tail_cons] at htail
    exact sameBound_of_return hl hret
      (stackOk_caller (htail.symm.trans hm ▸ h.line.stackOk)).1
  · exact absurd hl (by decide)

theorem plain_silent_keeps (hl : l ∈ plainLabels) (ht : line l s = .silent t) :
    t.mb = s.mb ∧ t.rt = s.rt := by
  cases l
  case run1 | run2 | run3 | run4 | su1 | rs1 | gw5 | gw10 | gw11 | gw14 | gwRet =>
    cases ht; simp [State.call, State.enterRace]
  case ae2 => cases ht; unfold State.callNextActive; split <;> simp [State.call]
  case gw9 | gw17 => cases ht; split <;> simp [State.call]
  case gw8 | sd2 | sd3 | sd4 | sd5 =>
    simp only [line, operate] at ht
    split at ht <;> cases ht
    exact ⟨rfl, rfl⟩
  case rs4 | rs7 | ae2n1 | ae3 | na1 | rc2 | rc3 | rc4 | rc5 | rc7 | gw1 | gw2 | gw7 | gw16 | sd1 =>
    cases ht
  all_goals exact absurd hl (by decide)

theorem plain_silent (h : s.Ordered l stack key) (hl : l ∈ plainLabels)
    (ht : line l s = .silent t) : t.KeyHere key := by
  obtain ⟨hmb, hrt⟩ := plain_silent_keeps hl ht
  exact h.plain hl ((line_silent_frame ht).rest.keyFrame hmb) hrt rfl (line_silent_leads ht)

theorem addLevel_keeps {a : AccSel} (ht : addLevel a m u = .next t) :
    t.mb = u.mb ∧ t.rt = u.rt ∧ t.sink = u.sink := by
  obtain ⟨b, hb⟩ := exec_accAddBit a u.ansBit u
  obtain ⟨v, hv, hcase⟩ := proceed_eq_next ht
  have hkeep : v.mb = u.mb ∧ v.rt = u.rt ∧ v.sink = u.sink := by
    rw [hb] at hv
    cases hv
    split <;> simp
  rcases hcase with ⟨-, ht⟩ | ⟨-, rfl⟩
  · cases ht; exact hkeep
  · exact hkeep

theorem plain_rest_keeps (hl : l ∈ plainLabels) (hc : line l s = .operation c after)
    (ht : after u = .next t) : t.mb = u.mb ∧ t.rt = u.rt ∧ t.sink = u.sink := by
  cases l <;> simp only [line, operate] at hc
  case rs4 | rs7 | ae2n1 | ae3 | na1 | rc2 | rc3 | rc4 | rc5 | rc7 | gw1 | gw2 | gw7 | gw16 | sd1 =>
    cases hc; cases ht; simp
  case gw8 | sd2 | sd4 => split at hc <;> cases hc; cases ht; simp
  case sd3 | sd5 => split at hc <;> cases hc; exact addLevel_keeps ht
  case run1 | run2 | run3 | run4 | su1 | rs1 | ae2 | gw5 | gw9 | gw10 | gw11 | gw14 | gw17
    | gwRet => cases hc
  all_goals exact absurd hl (by decide)

theorem plain_operationAt {d : BitVec 2} {i : Instr} (hl : l ∈ plainLabels)
    (hop : operationAt d l = some i) : recordOf s i = none ∧ Field.pos .en ∉ writes i := by
  cases l
  case rs4 | rs7 | ae2n1 | ae3 | na1 | rc2 | rc3 | rc4 | rc5 | rc7 | gw1 | gw2 | gw7 | gw8 | gw16
    | sd1 | sd2 | sd3 | sd4 | sd5 => cases hop; exact ⟨rfl, by decide⟩
  case run1 | run2 | run3 | run4 | su1 | rs1 | ae2 | gw5 | gw9 | gw10 | gw11 | gw14 | gw17
    | gwRet => cases hop
  all_goals exact absurd hl (by decide)

theorem mb_notMem_writes (i : Instr) : Field.mb ∉ writes i ∧ Field.rt ∉ writes i := by
  cases i <;> simp [writes]

theorem plain_orders (h : s.Ordered l stack key) (hl : l ∈ plainLabels) :
    (line l s).Orders s key := by
  cases hc : line l s with
  | silent t => exact plain_silent h hl hc
  | operation c after =>
    have hsound := h.line.inv.sound
    obtain ⟨i, hop, hi⟩ := line_operation hsound.direction hc
    obtain ⟨hquiet, hen⟩ := plain_operationAt (s := s) hl hop
    refine h.operation hi (operationAt_isOperation hop) fun u hu hperf hrun hsink t ht => ?_
    obtain ⟨hmb, hrt⟩ := mb_notMem_writes i
    have hmid := (h.line.performed hperf).2
    have hframe : s.KeyFrame u := hmid.keyFrame (exec_onward h.line.run hu) ⟨hen, hmb⟩
    obtain ⟨hmb', hrt', hsink'⟩ := plain_rest_keeps hl hc ht
    obtain ⟨v, hv, hrest⟩ := line_rest_frame hc u
    cases hv.symm.trans ht
    refine .of_option (o := none) (by rw [hsink', hsink, hquiet]) nofun ?_
    exact h.plain hl (hframe.trans (hrest.keyFrame hmb')) (hrt'.trans (hmid.same.fields .rt hrt))
      hperf.ctlp (line_rest_leads hc hrun ht)

/-! ## The lines of `RESYNC` and of the enable cursor -/

theorem State.Ordered.enable (h : s.Ordered l stack key) (hl : Claim.at .enable l = true) :
    s.present .en = true :=
  h.line.meets (c := .enable) hl

theorem State.Mid.enableOf (hmid : s.Mid l stack xs u) (he : s.present .en = true) :
    u.present .en = true := by
  rwa [hmid.present]

/-- At `RS.2`, `RS.3` and `RS.9` `CS` holds the clock's position, and no key is past it. -/
theorem State.Ordered.atStart (h : s.Ordered l stack key) (hl : l ∈ startLabels) :
    s.cs = .holding s.pos.clk ∧ key ≤ s.pos.clk := by
  have hat : Claim.at .target l = true ∧ Claim.at .aligned l = true ∧
      keyPlace true s.rt l = .enable ∧ keyPlace false s.rt l = .clock := by
    rcases (show l = .rs2 ∨ l = .rs3 ∨ l = .rs9 by simpa [startLabels] using hl) with
      rfl | rfl | rfl <;> exact ⟨rfl, rfl, rfl, rfl⟩
  obtain ⟨htarget, haligned, hyes, hno⟩ := hat
  have hbound := h.keyAt.bound
  cases he : s.present .en with
  | true =>
    have haligned : s.pos.clk = s.pos.en := h.line.meets (c := .aligned) haligned he
    rw [he, hyes] at hbound
    exact ⟨haligned ▸ h.line.meets (c := .target) htarget he, haligned ▸ hbound⟩
  | false =>
    rw [he, hno] at hbound
    exact ⟨h.keyAt.start he hl, hbound⟩

theorem State.Mid.csAtClock (hmid : s.Mid l stack xs u) (hs : s.cs = .holding s.pos.clk)
    (hx : .reg .cs ∉ xs ∧ .pos .clk ∉ xs := by decide) : u.cs = .holding u.pos.clk := by
  rw [show u.cs = s.cs from hmid.same.fields (.reg .cs) hx.1,
    show u.pos.clk = s.pos.clk from hmid.same.fields (.pos .clk) hx.2, hs]

theorem rs2_orders (h : s.Ordered .rs2 stack key) : (line .rs2 s).Orders s key := by
  refine h.operate (i := .curLevelClk) (by decide) rfl rfl nofun (fun _ => levelOp_result)
    (fun _ => rfl) fun u hmid hon _ => ?_
  have hstart := hmid.csAtClock (h.atStart (by decide)).1
  split
  · exact (h.keyAt.move (hmid.keyFrame hon) rfl (by decide) fun _ _ => hstart).goto
  · exact (h.keyAt.move (hmid.keyFrame hon) rfl (by decide) fun _ _ => hstart).goto

theorem rs3_orders (h : s.Ordered .rs3 stack key) : (line .rs3 s).Orders s key := by
  obtain ⟨hcs, hle⟩ := h.atStart (by decide)
  have hkey : s.cs.val = s.pos.clk := congrArg WorkReg.val hcs
  refine h.operate (i := .emitMarkerError) (by decide) rfl rfl
    (fun r hr => by cases hr; exact hkey ▸ hle) (fun _ => emitErrorMarkerOp_result) (fun u => ?_)
    fun u hmid _ _ => ?_
  · dsimp only; split
    · exact withReg_ind (P := fun v => v.sink = u.sink) rfl fun _ => by simp [State.call]
    · rfl
  · have hclk : u.pos.clk = s.pos.clk := hmid.pos_eq .clk (by decide)
    have hen : u.pos.en = s.pos.en := hmid.pos_eq .en (by decide)
    change State.KeyHere _ s.cs.val
    rw [hkey, ← hclk]
    dsimp only; split
    case isTrue he =>
      have haligned : s.pos.clk = s.pos.en :=
        h.line.meets (c := .aligned) rfl (hmid.present .en ▸ he)
      refine withReg_ind (P := fun v => v.KeyHere u.pos.clk) (.ended rfl) fun v => ?_
      have hbound : u.KeyBound u.pos.clk .next := fun t _ ht => by
        rw [hclk, haligned, ← hen]; exact BitVec.le_of_lt ht
      have hframe : u.KeyFrame ((u.record .polarityMismatch).setReg .es v) :=
        State.KeyFrame.trans (u := u.record .polarityMismatch)
          ⟨rfl, rfl, rfl, BitVec.le_refl _, rfl⟩ (.setReg _ .es v)
      exact (State.KeyAt.of_enable (l := .na1) .next (by simpa [State.present] using he) rfl
        (hbound.frame hframe)).call
    case isFalse he =>
      exact (State.KeyAt.outsideWord rfl (BitVec.le_refl _)).goto

theorem rs5_orders (h : s.Ordered .rs5 stack key) : (line .rs5 s).Orders s key := by
  have he := h.enable rfl
  have hkey : s.cs.val = s.pos.en := congrArg WorkReg.val (h.line.meets (c := .target) rfl he)
  have hle : key ≤ s.pos.en := by
    have hbound := h.keyAt.bound
    rwa [he] at hbound
  refine h.operate (i := .emitError) (by decide) rfl rfl
    (fun r hr => by cases hr; exact hkey ▸ hle) (fun _ => emitErrorOp_result) (fun _ => rfl)
    fun u hmid _ _ => ?_
  have hen : u.pos.en = s.pos.en := hmid.pos_eq .en (by decide)
  change State.KeyHere _ s.cs.val
  rw [hkey, ← hen]
  exact (State.KeyAt.of_enable .enable (hmid.enableOf he) rfl (BitVec.le_refl _)).goto

/-- `AE.4` and `RS.6`, where the enable channel is present, go to `RS.2`. -/
theorem State.Ordered.reachEnable (h : s.Ordered l stack key) (hl : l = .ae4 ∨ l = .rs6)
    (hmid : s.Mid l stack [.pos .clk] u) (hon : s.Onward u) : u.KeyAt key .rs2 := by
  have he : s.present .en = true := h.enable (by rcases hl with rfl | rfl <;> rfl)
  refine h.keyAt.move (hmid.keyFrame hon) ?_ ?_ fun hno => ?_
  · rcases hl with rfl | rfl <;> rfl
  · rcases hl with rfl | rfl <;> rfl
  · exact absurd (hmid.enableOf he) (by simp [hno])

theorem rs6_orders (h : s.Ordered .rs6 stack key) : (line .rs6 s).Orders s key :=
  h.operate (i := .curAdvToClk .cs) (by decide) rfl rfl nofun (fun _ => advToOp_result)
    (fun _ => rfl) fun _ hmid hon _ => (h.reachEnable (.inr rfl) hmid hon).goto

theorem ae4_orders (h : s.Ordered .ae4 stack key) : (line .ae4 s).Orders s key := by
  refine h.operate (i := .curAdvToClk .cs) (by decide) rfl rfl nofun (fun _ => advToOp_result)
    (fun _ => rfl) fun u hmid hon _ => .ret h.line hmid.ctlp fun m hm => ?_
  rw [show m = .rs2 by simpa [placeOf, labelProc] using mayReturnTo_cases hm]
  exact h.reachEnable (.inl rfl) hmid hon

/-- Without the enable channel `CS` takes the clock's position, as `AE.1` and `RS.8` do. -/
theorem State.Ordered.takeClock (h : s.Ordered l stack key) (hno : s.present .en = false)
    (hmid : s.Mid l stack [] u) (hon : s.Onward u) (hpos : u.ansPos = s.pos.get .clk)
    (hm : keepsMarkers l m = true) : (u.take .cs).KeyAt key m := by
  have hplace (rt : Bool) (k : Label) : keyPlace false rt k = .clock := by cases k <;> rfl
  refine h.keyAt.move ((hmid.keyFrame hon).trans (.setReg u .cs _)) ?_ hm fun _ _ => ?_
  · rw [hno, hplace, hplace]
  · change WorkReg.holding u.ansPos = .holding u.pos.clk
    rw [hpos, show u.pos.clk = s.pos.clk from hmid.pos_eq .clk List.not_mem_nil]
    rfl

theorem rs8_orders (h : s.Ordered .rs8 stack key) : (line .rs8 s).Orders s key :=
  h.operate (i := .curPosClk) (by decide) rfl rfl nofun (fun _ => posOp_result) (fun _ => by simp)
    fun _ hmid hon hpos =>
      (h.takeClock (h.line.meets (c := .noEnable) rfl) hmid hon hpos (by decide)).goto

theorem rs9_orders (h : s.Ordered .rs9 stack key) : (line .rs9 s).Orders s key := by
  obtain ⟨hcs, hle⟩ := h.atStart (by decide)
  have hkey : s.cs.val = s.pos.clk := congrArg WorkReg.val hcs
  refine h.operate (i := .emitStart) (by decide) rfl rfl
    (fun r hr => by cases hr; exact hkey ▸ hle) (fun _ => emitStartOp_result) (fun _ => rfl)
    fun u hmid _ _ => .ret h.line hmid.ctlp fun m hm => ?_
  have hclk : u.pos.clk = s.pos.clk := hmid.pos_eq .clk (by decide)
  change u.KeyAt s.cs.val m
  rw [hkey, ← hclk]
  rcases (show m = .run3 ∨ m = .run4 ∨ m = .gwRet by
    simpa [placeOf, labelProc] using mayReturnTo_cases hm) with rfl | rfl | rfl <;>
  exact .outsideWord rfl (BitVec.le_refl _)

theorem ae1_orders (h : s.Ordered .ae1 stack key) : (line .ae1 s).Orders s key := by
  simp only [line]; split
  case isTrue => exact (h.keyAt.move (m := .ae2) (.refl s) rfl (by decide)).goto
  case isFalse hno =>
    refine h.operate (i := .curPosClk) (by decide) rfl rfl nofun (fun _ => posOp_result)
      (fun _ => by simp) fun u hmid hon hpos =>
        .ret h.line (by simpa using hmid.ctlp) fun m hm => ?_
    rw [show m = .rs2 by simpa [placeOf, labelProc] using mayReturnTo_cases hm]
    exact h.takeClock (Bool.eq_false_iff.mpr hno) hmid hon hpos (by decide)

/-- The enable cursor goes to the next transition; the key is not after it nor after any later. -/
theorem State.Ordered.advanceEnable (h : s.Ordered l stack key) (he : Claim.at .enable l = true)
    (hl : keyPlace true s.rt l = .next) (hmid : s.Mid l stack [.pos .en] u)
    (hnext : s.NextAvailable .en (u.pos.get .en)) :
    u.present .en = true ∧ u.KeyBound key .next ∧ u.KeyBound key .enable := by
  have hbound := h.keyAt.bound
  rw [h.enable he, hl] at hbound
  refine ⟨hmid.enableOf (h.enable he), fun t ht hlt => hbound t (hmid.same.cap ▸ ht) ?_,
    hbound _ hnext.1 hnext.2.1⟩
  exact BitVec.lt_trans hnext.2.1 hlt

theorem na2_orders (h : s.Ordered .na2 stack key) : (line .na2 s).Orders s key := by
  refine h.operate (i := .curAdvEdgeEn) (by decide) rfl rfl nofun (fun _ => advEdgeOp_result)
    (fun _ => rfl) fun u hmid _ ⟨_, hnext⟩ => ?_
  obtain ⟨he, hbound, -⟩ := h.advanceEnable rfl rfl hmid hnext
  exact (State.KeyAt.of_enable .next he rfl hbound).goto

theorem ae2n2_orders (h : s.Ordered .ae2n2 stack key) : (line .ae2n2 s).Orders s key := by
  refine h.operate (i := .curAdvEdgeEn) (by decide) rfl rfl nofun (fun _ => advEdgeOp_result)
    (fun _ => rfl) fun u hmid _ ⟨_, hnext⟩ => ?_
  obtain ⟨he, hbound, -⟩ := h.advanceEnable rfl rfl hmid hnext
  exact (State.KeyAt.of_enable .next he rfl hbound).goto

theorem ae2n3_orders (h : s.Ordered .ae2n3 stack key) : (line .ae2n3 s).Orders s key := by
  refine h.operate (i := .curAdvEdgeEn) (by decide) rfl rfl nofun (fun _ => advEdgeOp_result)
    (fun _ => rfl) fun u hmid _ ⟨_, hnext⟩ => ?_
  obtain ⟨he, -, hbound⟩ := h.advanceEnable rfl rfl hmid hnext
  exact (State.KeyAt.of_enable .enable he rfl hbound).goto

theorem na3_orders (h : s.Ordered .na3 stack key) : (line .na3 s).Orders s key := by
  refine h.operate (i := .curAdvEdgeEn) (by decide) rfl rfl nofun (fun _ => advEdgeOp_result)
    (fun _ => rfl) fun u hmid _ ⟨_, hnext⟩ => .ret h.line hmid.ctlp fun m hm => ?_
  obtain ⟨he, -, hbound⟩ := h.advanceEnable rfl rfl hmid hnext
  rcases (show m = .rs4 ∨ m = .ae3 by
    simpa [placeOf, labelProc] using mayReturnTo_cases hm) with rfl | rfl <;>
  exact .of_enable .enable he rfl hbound

end

end Sys2Proof.Machine
end

section
/-! The keys of the records at the lines of `RACE_CHECK`, `GET_WORD` and `SAMPLE_DATA`, and the
statement. -/

namespace Sys2Proof.Machine

open Sys2Proof

section
variable {s t u : State} {key : Sample} {l m : Label} {stack : List Point} {xs : List Field}
  {c : Code} {after : State → Out}

/-! ## The lines of `RACE_CHECK` -/

theorem raceCaller (hm : mayReturnTo 6 m = true) : m = .gw6 ∨ m = .gw12 ∨ m = .gw15 := by
  simpa using mayReturnTo_cases hm

/-- `RACE_CHECK` returns with its answer "no toggle". -/
theorem State.KeyAt.noToggle (h : s.KeyAt key l) (hl : l = .rc1 ∨ l = .rc8) (hf : s.KeyFrame u)
    (hrt : u.rt = false) (hm : mayReturnTo 6 m = true) : u.KeyAt key m := by
  have hplace (k : Label) (hk : k = .gw6 ∨ k = .gw12 ∨ k = .gw15) (en : Bool) :
      keyPlace en false k = .clock := by
    rcases hk with rfl | rfl | rfl <;> cases en <;> rfl
  refine h.move hf ?_ ?_ ?_
  · rw [hrt, hplace m (raceCaller hm)]
    rcases hl with rfl | rfl <;> rfl
  · rcases hl with rfl | rfl <;> rcases raceCaller hm with rfl | rfl | rfl <;> rfl
  · intro _ hmem
    rcases raceCaller hm with rfl | rfl | rfl <;> exact absurd hmem (by decide)

theorem rc1_orders (h : s.Ordered .rc1 stack key) : (line .rc1 s).Orders s key := by
  simp only [line]; split
  case isTrue => exact (h.keyAt.move (m := .rc2) (.refl s) rfl (by decide)).goto
  case isFalse =>
    have hframe : s.KeyFrame { s with rt := false } := ⟨rfl, rfl, rfl, BitVec.le_refl _, rfl⟩
    exact State.KeyHere.ret (u := { s with rt := false }) h.line h.line.ctlp fun _ hm =>
      h.keyAt.noToggle (.inl rfl) hframe rfl hm

theorem rc6_orders (h : s.Ordered .rc6 stack key) : (line .rc6 s).Orders s key := by
  refine h.operate (i := .curWouldCrossClk .rs) (by decide) rfl rfl nofun
    (fun _ => wouldCrossOp_result) (fun _ => by split <;> rfl) fun u hmid hon _ => ?_
  have hframe := hmid.keyFrame hon
  split
  · exact (h.keyAt.move hframe rfl (by decide)).goto
  · exact (h.keyAt.move (u := { u with rt := true }) (m := .rc10)
      (hframe.trans ⟨rfl, rfl, rfl, BitVec.le_refl _, rfl⟩) rfl (by decide)).goto

theorem rc8_orders (h : s.Ordered .rc8 stack key) : (line .rc8 s).Orders s key := by
  refine h.operate (i := .curWouldCrossEn .rn) (by decide) rfl rfl nofun
    (fun _ => wouldCrossOp_result) (fun _ => by split <;> rfl) fun u hmid hon _ => ?_
  have hframe := hmid.keyFrame hon
  split
  · exact (h.keyAt.move hframe rfl (by decide)).goto
  · exact State.KeyHere.ret (u := { u with rt := false }) h.line hmid.ctlp fun _ hm =>
      h.keyAt.noToggle (.inr rfl) (hframe.trans ⟨rfl, rfl, rfl, BitVec.le_refl _, rfl⟩) rfl hm

theorem rc9_orders (h : s.Ordered .rc9 stack key) : (line .rc9 s).Orders s key := by
  refine h.operate (i := .curNextEdgeEn) (by decide) rfl rfl nofun (fun _ => nextEdgeOp_result)
    (fun _ => by simp) fun u hmid hon _ => ?_
  have hframe := (hmid.keyFrame hon).trans (.setReg u .rs u.ansPos)
  exact (h.keyAt.move (u := { u.take .rs with rt := true }) (m := .rc10)
    (hframe.trans ⟨rfl, rfl, rfl, BitVec.le_refl _, rfl⟩) rfl (by decide)).goto

/-- No enable transition ahead of the enable cursor is at or before the clock cursor. -/
theorem State.InLine.clk_lt_of_firstAfter (h : s.InLine l stack) (he : s.present .en = true)
    {t : Sample} (ht : s.FirstAfter .en t) : s.pos.clk < t :=
  BitVec.not_le.mp fun hle => h.meets (c := .clear) rfl he t ht.1 ⟨ht.2.1, hle⟩

/-- After a `DISABLE` at the enable's next transition, every later one bounds the keys. -/
theorem State.Mid.disabled (hmid : s.Mid l stack xs u) (hx : .pos .en ∉ xs) {t : Sample}
    (ht : s.FirstAfter .en t) : u.KeyBound t .next := fun e he hlt =>
  ht.2.2 e (hmid.same.cap ▸ he) (hmid.pos_eq .en hx ▸ hlt)

/-- A procedure returns to the caller that stands below it. -/
theorem State.KeyAt.ret {rest : List Point} (h : u.KeyAt key m)
    (hl : u.ctlp = .line l :: .line m :: rest) : u.ret.KeyHere key :=
  (h.withStack u.ctlp.tail).here (show u.ret.ctlp = .line m :: rest by
    rw [State.ret_ctlp, hl, List.tail_cons])

theorem rc10_orders (h : s.Ordered .rc10 stack key) : (line .rc10 s).Orders s key := by
  have he := h.enable rfl
  have hfirst : s.FirstAfter .en s.rs.val := h.line.meets (c := .toggleEdge) rfl he
  have hrt : s.rt = true := h.line.meets (c := .toggled) rfl
  have hlt := h.line.clk_lt_of_firstAfter he hfirst
  obtain ⟨m, rest, rfl, hm⟩ := h.line.caller (by decide)
  have hemit : s.raceEmit = !(m == .gw12) :=
    h.line.meets (c := .raceCall) rfl m (by rw [h.line.ctlp]; rfl)
  simp only [line]; split
  case isTrue hyes =>
    have hcaller : m = .gw6 ∨ m = .gw15 := by
      rcases raceCaller hm with rfl | rfl | rfl
      · exact .inl rfl
      · cases hemit.symm.trans hyes
      · exact .inr rfl
    refine h.operate (i := .emitDisable .rs) (by decide) rfl rfl (fun r hr => ?_)
      (fun _ => emitDisableOp_result) (fun _ => rfl) fun u hmid _ _ => ?_
    · cases hr
      exact BitVec.le_trans h.keyAt.bound (BitVec.le_of_lt hlt)
    · have hrtu : u.rt = true := hrt ▸ hmid.same.fields .rt (by decide)
      refine State.KeyAt.ret (.of_enable .next (hmid.enableOf he) ?_
        (hmid.disabled (by decide) hfirst)) hmid.ctlp
      rw [hrtu]
      rcases hcaller with rfl | rfl <;> rfl
  case isFalse hno =>
    have hcaller : m = .gw12 := by
      rcases raceCaller hm with rfl | rfl | rfl
      · exact absurd hemit hno
      · rfl
      · exact absurd hemit hno
    subst hcaller
    exact (h.keyAt.move (m := .gw12) (.refl s) rfl (by decide)).ret h.line.ctlp

/-! ## The lines of `GET_WORD` -/

theorem gw3_orders (h : s.Ordered .gw3 stack key) : (line .gw3 s).Orders s key := by
  refine h.operate (i := .accResetDin) (by decide) rfl rfl nofun (fun _ => accResetOp_result)
    (fun _ => rfl) fun u hmid hon _ => ?_
  exact (State.KeyAt.of_clock (s := { u with mb := [], nr := false }) (l := .gw4) rfl
    (BitVec.le_trans h.keyAt.bound (hon.pos .clk)) (fun _ => ⟨.nil, nofun, nofun⟩)
    (by decide)).goto

theorem State.KeyAt.toMarkers (h : s.KeyAt key l) (hf : s.KeyFrame u)
    (hplace : keyPlace (s.present .en) s.rt l = .clock)
    (hkeeps : keepsMarkers l .gw18 = true) : u.toMarkers.KeyHere key :=
  (h.move (u := { u with k := 0#7 }) (m := .gw18) (hf.trans ⟨rfl, rfl, rfl, BitVec.le_refl _, rfl⟩)
    hplace.symm hkeeps).goto

theorem State.KeyAt.loopAt (h : s.KeyAt key l) (hl : l = .gw4 ∨ l = .gw4next) (n : Nat) :
    (s.loopAt n).KeyHere key := by
  have hplace : keyPlace (s.present .en) s.rt l = .clock := by rcases hl with rfl | rfl <;> rfl
  unfold State.loopAt; split
  · refine (h.move (u := { s with i := BitVec.ofNat 7 n }) (m := .gw5)
      ⟨rfl, rfl, rfl, BitVec.le_refl _, rfl⟩ hplace.symm ?_).goto
    rcases hl with rfl | rfl <;> rfl
  · refine h.toMarkers (.refl s) hplace ?_
    rcases hl with rfl | rfl <;> rfl

/-- A word broken off at `GW.6` or `GW.15` goes on in `RESYNC`. -/
theorem State.Ordered.breakOff (h : s.Ordered l stack key) (hl : l = .gw6 ∨ l = .gw15)
    (hrt : s.rt = true) (d : Cause) : ((s.record d).call .gwRet .rs1).KeyHere key := by
  have he : s.present .en = true := (h.line.meets (c := .toggle) rfl hrt).2
  have hf : s.KeyFrame (s.record d) := ⟨rfl, rfl, rfl, BitVec.le_refl _, rfl⟩
  refine (h.keyAt.move (m := .rs1) hf ?_ ?_).call
  · rw [he, hrt]; rcases hl with rfl | rfl <;> rfl
  · rcases hl with rfl | rfl <;> rfl

/-- Without a toggle the bit goes on. -/
theorem State.Ordered.goOn (h : s.Ordered l stack key)
    (hl : (l = .gw6 ∧ m = .gw7) ∨ (l = .gw15 ∧ m = .gw16)) (hrt : ¬ s.rt = true) :
    (s.goto m).KeyHere key := by
  rcases hl with ⟨rfl, rfl⟩ | ⟨rfl, rfl⟩ <;>
  · refine (h.keyAt.move (.refl s) ?_ (by decide)).goto
    rw [Bool.eq_false_iff.mpr hrt]
    cases s.present .en <;> rfl

theorem gw6_orders (h : s.Ordered .gw6 stack key) : (line .gw6 s).Orders s key := by
  simp only [line, Line.Orders]; split
  case isTrue hrt => exact h.breakOff (.inl rfl) hrt _
  case isFalse hrt => exact h.goOn (.inl ⟨rfl, rfl⟩) hrt

theorem gw15_orders (h : s.Ordered .gw15 stack key) : (line .gw15 s).Orders s key := by
  simp only [line, Line.Orders]; split
  case isTrue hrt => exact h.breakOff (.inr rfl) hrt _
  case isFalse hrt => exact h.goOn (.inr ⟨rfl, rfl⟩) hrt

theorem gw12_orders (h : s.Ordered .gw12 stack key) : (line .gw12 s).Orders s key := by
  simp only [line, Line.Orders]; split
  case isTrue =>
    refine withReg_ind (P := fun u => u.KeyHere key) (.ended rfl) fun t => ?_
    have hf : s.KeyFrame ({ s with nr := true }.setReg .ds t) :=
      State.KeyFrame.trans (u := { s with nr := true }) ⟨rfl, rfl, rfl, BitVec.le_refl _, rfl⟩
        (.setReg _ .ds t)
    exact h.keyAt.toMarkers hf rfl (by decide)
  case isFalse => exact (h.keyAt.move (m := .gw13) (.refl s) rfl (by decide)).goto

theorem gw13_orders (h : s.Ordered .gw13 stack key) : (line .gw13 s).Orders s key :=
  h.operate (i := .curAdvEdgeClk) (by decide) rfl rfl nofun (fun _ => advEdgeOp_result)
    (fun _ => rfl) fun _ hmid hon _ => h.keyAt.toMarkers (hmid.keyFrame hon) rfl (by decide)

/-! ### The markers and the result of a word -/

/-- The operation of `GW.18` is the emission of the marker `MB[k]`, in either direction. -/
theorem markerOperation (hdir : s.mdir = 0#2 ∨ s.mdir = 1#2) :
    ∃ i kind, decode (opcWord (0xD4#8 ||| s.mdir.setWidth 8)) = some i ∧ isOperation i = true ∧
      recordOf s i = s.mb[s.k.toNat]?.map (fun t => .marker t kind) ∧
      ∀ u, exec i s = .next u →
        s.Result [.k] (fun u => s.k.toNat < s.mb.length ∧ u.k = s.k + 1) u := by
  rcases hdir with hd | hd <;> rw [hd]
  · exact ⟨.emitMarkerUp, .up, by decide, rfl, rfl, fun _ => emitBitMarkerOp_result⟩
  · exact ⟨.emitMarkerDown, .down, by decide, rfl, rfl, fun _ => emitBitMarkerOp_result⟩

/-- With the marker `MB[k]` emitted, those after it are still kept. -/
theorem State.MarkersKept.next (h : s.MarkersKept key .gw18) (hk : s.k.toNat < s.mb.length)
    (hmb : u.mb = s.mb) (hclk : u.pos.clk = s.pos.clk) (hnext : u.k.toNat = s.k.toNat + 1) :
    u.MarkersKept s.mb[s.k.toNat] .gw18 := by
  obtain ⟨hrise, hbehind, -⟩ := h
  refine ⟨hmb ▸ hrise, hclk ▸ hmb ▸ hbehind, fun m hm => ?_⟩
  have hdrop := hrise.sublist (List.drop_sublist s.k.toNat s.mb)
  rw [List.drop_eq_getElem_cons hk] at hdrop
  refine List.rel_of_pairwise_cons hdrop ?_
  simpa only [State.pending, hmb, hnext] using hm

theorem gw18_orders (h : s.Ordered .gw18 stack key) : (line .gw18 s).Orders s key := by
  simp only [line]; split
  case isFalse => exact (h.keyAt.move (m := .gw19) (.refl s) rfl (by decide)).goto
  case isTrue hk =>
    obtain ⟨hrise, hbehind, hpending⟩ := h.keyAt.markers rfl rfl
    obtain ⟨i, kind, hdec, hop, hrec, hres⟩ := markerOperation h.line.inv.sound.direction
    rw [List.getElem?_eq_getElem hk, Option.map_some] at hrec
    refine h.operate hdec hop hrec (fun r hr => ?_) hres (fun _ => rfl)
      fun u hmid _ ⟨_, hnext⟩ => ?_
    · cases hr
      refine hpending _ ?_
      rw [State.pending, List.drop_eq_getElem_cons hk]
      exact List.mem_cons_self
    · have hmb : u.mb = s.mb := hmid.same.fields .mb (by decide)
      have hclk : u.pos.clk = s.pos.clk := hmid.pos_eq .clk (by decide)
      have hroom := h.line.inv.sound.markers
      have hcount : u.k.toNat = s.k.toNat + 1 := by
        rw [hnext, BitVec.toNat_add]
        exact Nat.mod_eq_of_lt (show s.k.toNat + 1 < 2 ^ 7 by omega)
      exact (State.KeyAt.of_clock rfl (hclk ▸ hbehind _ (List.getElem_mem hk))
        (fun _ => State.MarkersKept.next ⟨hrise, hbehind, hpending⟩ hk hmb hclk hcount)
        (by decide)).here hmid.ctlp

theorem gw19_orders (h : s.Ordered .gw19 stack key) : (line .gw19 s).Orders s key := by
  refine h.operation (i := .curPosClk) (by decide) rfl fun u hu hperf hrun hsink t ht => ?_
  have hmid := (h.line.performed hperf).2
  have hclk : u.pos.clk = s.pos.clk := hmid.pos_eq .clk (by decide)
  replace hsink : u.sink = s.sink := by simpa [recordOf] using hsink
  obtain ⟨v, hv, hcase⟩ := proceed_eq_next ht
  rcases exec_second rfl hv with ⟨code, rfl⟩ | hdone
  · rcases hcase with ⟨hnot, -⟩ | ⟨-, rfl⟩
    · cases hnot
    · exact .of_option (o := none) (by simpa using hsink) nofun (.ended rfl)
  · have hgoes := hdone.running hmid.run
    rcases hcase with ⟨-, ht⟩ | ⟨hnot, -⟩
    · cases ht
      obtain ⟨-, hresult⟩ :=
        (exec_emitted rfl hmid.run hv).resolve_left fun hstop => hstop.1 hgoes
      have hkeep : v.pos.clk = u.pos.clk := hdone.same.fields (.pos .clk) (by decide)
      refine .of_option (o := recordOf u .emitResult) (hsink ▸ hresult)
        (fun r hr => ?_) (State.KeyAt.outsideWord rfl ?_).goto
      · cases hr
        exact hclk ▸ h.keyAt.bound
      · exact hkeep ▸ BitVec.le_refl _
    · exact absurd hgoes hnot

theorem gw20_orders (h : s.Ordered .gw20 stack key) : (line .gw20 s).Orders s key := by
  simp only [line]; split
  case isTrue hnr =>
    have he : s.present .en = true := (h.line.meets (c := .deferred) rfl hnr).2
    have hfirst : s.FirstAfter .en s.ds.val := h.line.meets (c := .deferredEdge) rfl he hnr
    have hlt := h.line.clk_lt_of_firstAfter he hfirst
    refine h.operate (i := .emitDisable .ds) (by decide) rfl rfl (fun r hr => ?_)
      (fun _ => emitDisableOp_result) (fun _ => by simp [State.call]) fun u hmid _ _ => ?_
    · cases hr
      exact BitVec.le_trans h.keyAt.bound (BitVec.le_of_lt hlt)
    · have hf : u.KeyFrame (u.record .transactionEnd) := ⟨rfl, rfl, rfl, BitVec.le_refl _, rfl⟩
      exact (State.KeyAt.of_enable (s := u.record .transactionEnd) (l := .rs1) .next
        (hmid.enableOf he) rfl ((hmid.disabled (by decide) hfirst).frame hf)).call
  case isFalse =>
    refine State.KeyHere.ret h.line h.line.ctlp fun m hm => ?_
    rw [show m = .run4 by simpa [placeOf, labelProc] using mayReturnTo_cases hm]
    exact h.keyAt.move (.refl s) rfl (by decide)

/-! ## The last line of `SAMPLE_DATA` -/

theorem State.MarkersKept.append (h : s.MarkersKept key .sd6)
    (hle : key ≤ s.pos.clk) (hu : u.mb = s.mb ++ [s.pos.clk]) (hclk : u.pos.clk = s.pos.clk) :
    u.MarkersKept key m := by
  obtain ⟨hrise, hbehind, hpending⟩ := h
  refine ⟨?_, fun x hx => ?_, fun x hx => ?_⟩
  · rw [hu]
    exact List.pairwise_append.mpr ⟨hrise, List.pairwise_singleton _ _, fun x hx y hy => by
      rw [List.mem_singleton.mp hy]; exact hbehind x hx⟩
  · rw [hu, List.mem_append, List.mem_singleton] at hx
    rcases hx with hx | rfl
    · exact hclk ▸ hbehind x hx
    · exact hclk ▸ BitVec.le_refl _
  · have hmem := pending_subset u m hx
    rw [hu, List.mem_append, List.mem_singleton] at hmem
    rcases hmem with hx | rfl
    · exact hpending x hx
    · exact hle

theorem sd6_orders (h : s.Ordered .sd6 stack key) : (line .sd6 s).Orders s key := by
  obtain ⟨-, hcs⟩ := (dataBehind_iff s).mp h.behind h.line.run
  have hcs : s.cs = .holding s.pos.clk := hcs ⟨.sd6, by decide, State.top_of_ctlp h.line.ctlp⟩
  change s.noteSample.KeyHere key
  unfold State.noteSample; split
  case isFalse => exact .ended rfl
  case isTrue =>
    rw [withReg_written (r := .cs) _ (by rw [State.reg, hcs]; rfl)]
    refine State.KeyHere.ret (u := { s with mb := s.mb ++ [(s.reg .cs).val] }) h.line h.line.ctlp
      fun m hm => ?_
    have hkept (l : Label) : State.MarkersKept { s with mb := s.mb ++ [(s.reg .cs).val] } key l :=
      (h.keyAt.markers rfl rfl).append h.keyAt.bound (by rw [State.reg, hcs]; rfl) rfl
    rcases (show m = .gw10 ∨ m = .gw4next by
      simpa [placeOf, labelProc] using mayReturnTo_cases hm) with rfl | rfl <;>
    exact .of_clock rfl h.keyAt.bound (fun _ => hkept _) (by decide)

/-! ## Every line, and the statement -/

theorem line_orders (h : s.Ordered l stack key) : (line l s).Orders s key := by
  cases l with
  | run1 | run2 | run3 | run4 | su1 | rs1 | rs4 | rs7 | ae2 | ae2n1 | ae3 | na1 | rc2 | rc3 | rc4
  | rc5 | rc7 | gw1 | gw2 | gw5 | gw7 | gw8 | gw9 | gw10 | gw11 | gw14 | gw16 | gw17 | gwRet | sd1
  | sd2 | sd3 | sd4 | sd5 => exact plain_orders h (by decide)
  | rs2 => exact rs2_orders h
  | rs3 => exact rs3_orders h
  | rs5 => exact rs5_orders h
  | rs6 => exact rs6_orders h
  | rs8 => exact rs8_orders h
  | rs9 => exact rs9_orders h
  | ae1 => exact ae1_orders h
  | ae2n2 => exact ae2n2_orders h
  | ae2n3 => exact ae2n3_orders h
  | ae4 => exact ae4_orders h
  | na2 => exact na2_orders h
  | na3 => exact na3_orders h
  | rc1 => exact rc1_orders h
  | rc6 => exact rc6_orders h
  | rc8 => exact rc8_orders h
  | rc9 => exact rc9_orders h
  | rc10 => exact rc10_orders h
  | gw3 => exact gw3_orders h
  | gw4 => exact h.keyAt.loopAt (.inl rfl) 0
  | gw4next => exact h.keyAt.loopAt (.inr rfl) (s.i.toNat + 1)
  | gw6 => exact gw6_orders h
  | gw12 => exact gw12_orders h
  | gw13 => exact gw13_orders h
  | gw15 => exact gw15_orders h
  | gw18 => exact gw18_orders h
  | gw19 => exact gw19_orders h
  | gw20 => exact gw20_orders h
  | sd6 => exact sd6_orders h

/-- The invariant, the data cursors behind the clock, and `key` bounds the keys to come. -/
structure State.KeepsOrder (s : State) (key : Sample) : Prop where
  inv : s.Inv
  behind : s.DataBehind
  keyHere : s.KeyHere key

theorem State.KeepsOrder.ordered (h : s.KeepsOrder key) (hl : s.ctlp = .line l :: stack) :
    s.Ordered l stack key :=
  ⟨⟨h.inv, h.inv.sound.running.mpr (by simp [hl]), hl⟩, h.behind, h.keyHere l stack hl⟩

theorem State.KeepsOrder.silent (h : s.KeepsOrder key) (hl : s.ctlp = .line l :: stack)
    (ht : line l s = .silent t) : t.KeepsOrder key := by
  have hordered := h.ordered hl
  have hkeeps := line_keeps hordered.line
  have horders := line_orders hordered
  rw [ht] at hkeeps horders
  exact ⟨hkeeps, h.behind.silent h.inv.sound.inControl hl ht, horders⟩

theorem decoderStep_follows (h : s.KeepsOrder key) (ht : decoderStep s = .next t) :
    s.Follows key t := by
  rw [h.inv.sound.inControl.decoderStep_eq] at ht
  have hsink := (settle_frame settleFuel s).sink
  have hu : (settle settleFuel s).KeepsOrder key :=
    settle_keeps_atLine (P := fun s => s.KeepsOrder key) (fun _ _ _ _ hl ht h => h.silent hl ht)
      settleFuel h
  generalize settle settleFuel s = u at ht hsink hu
  suffices hfollows : u.Follows key t by
    obtain ⟨rs, hrs, hrest⟩ := hfollows
    exact ⟨rs, hsink ▸ hrs, hrest⟩
  rcases pointStep_cases hu.inv.sound.inControl ht with ⟨hl, rfl⟩ | ⟨l, stack, c, after, hl, hc, ht⟩
  · exact .of_option (o := none) (by simp) nofun (.ended hl)
  · have horders := line_orders (hu.ordered hl)
    rw [hc] at horders
    exact horders t ht

theorem State.InLine.keyOk_iff (h : s.InLine l stack) : s.keyOk key ↔ s.KeyAt key l :=
  Machine.keyOk_iff h.ctlp h.inv.sound.stack

/-- Before the first record any key may come. -/
theorem State.startRun_keyOk (s : State) : s.startRun.keyOk 0#64 := by
  have hzero (t : Sample) : 0#64 ≤ t := BitVec.le_def.mpr (Nat.zero_le _)
  refine (Machine.keyOk_iff (l := .run1) (stack := []) rfl rfl).mpr ⟨?_, nofun, nofun⟩
  cases keyPlace (s.startRun.present .en) s.startRun.rt .run1
  · exact fun t _ _ => hzero t
  · exact hzero _
  · exact hzero _

/-- Settles O54, line by line (`line_orders`): where no record with a key below the last one's can
follow is said at each label (`State.KeyAt`), and each line hands it to the label it goes to. -/
theorem recordKeysNeverDecrease : Obligations.RecordKeysNeverDecrease := by
  unfold Obligations.RecordKeysNeverDecrease
  constructor
  · intro s t key hinv hbehind hr hkey ht
    have hhere : s.KeyHere key := fun l stack hl =>
      (State.InLine.keyOk_iff ⟨hinv, hr, hl⟩).mp hkey
    obtain ⟨rs, hsink, hrise, hlast⟩ := decoderStep_follows ⟨hinv, hbehind, hhere⟩ ht
    refine ⟨rs, hsink, hrise, fun hrun => ?_⟩
    rcases (decoderStep_keepsInv hinv ht).control with ⟨hno, -⟩ | ⟨l, stack, hline⟩
    · exact absurd hrun (by simp [hno])
    · exact hline.keyOk_iff.mpr (hlast l stack hline.ctlp)
  · intro s t hr hlegal ht
    have hgo : s.goBit = s.startRun := by simp [State.goBit, hr, hlegal]
    have hbit : t = s.goBit.accepted := by cases ht; rfl
    rw [hbit, hgo]
    exact State.startRun_keyOk s

end

end Sys2Proof.Machine
end

section
/-! Waiting: an operation that waits changes nothing but `STATE` and `OP`, and waits again when it
is tried again. -/

namespace Sys2Proof.Machine

open Sys2Proof

/-- The state with other values of `STATUS.OP`, `STATE` and the pending cancellation. -/
def State.again (s : State) (op : BitVec 8) (st : RunState) (cp : Bool) : State :=
  { s with op := op, runState := st, cp := cp }

/-- `u` waits for data of a present channel that is incomplete, and the operation `f` waits there
whatever `OP`, `STATE` and `CP`. -/
structure State.Waits (s : State) (f : State → Out) (u : State) (c : Channel) (code : BitVec 8) :
    Prop where
  present : s.present c = true
  incomplete : s.hz.get c ≠ s.cap.len
  eq : u = s.waitAt code
  again : ∀ op st cp, f (s.again op st cp) = .next ((s.again op st cp).waitAt code)

section
variable {s t u : State} {c : Channel} {r : SampleReg} {code : BitVec 8}

/-! ## The operations that can wait -/

theorem resumed_ne_waiting (x : RunState) : x.resumed ≠ .waiting := by
  cases x <;> decide

theorem State.needsData_waits (hw : (s.needsData c code).runState = .waiting) :
    s.hz.get c ≠ s.cap.len ∧
      ∀ op st cp, (s.again op st cp).needsData c code = (s.again op st cp).waitAt code := by
  unfold State.needsData at hw
  split at hw
  case isTrue => cases hw
  case isFalse hne => exact ⟨hne, fun _ _ _ => if_neg hne⟩

theorem withReg_waits {f : Sample → State} (hw : (withReg r code s f).runState = .waiting) :
    (s.reg r).written = true ∧ (f (s.reg r).val).runState = .waiting := by
  unfold withReg at hw
  split at hw
  case isTrue h => exact ⟨h, hw⟩
  case isFalse => cases hw

theorem again_reg (op : BitVec 8) (st : RunState) (cp : Bool) :
    (s.again op st cp).reg r = s.reg r := by
  cases r <;> rfl

theorem onChannel_waits {f : State → State} (h : onChannel c code s f = .next u)
    (hw : u.runState = .waiting)
    (hf : (f s).runState = .waiting → s.hz.get c ≠ s.cap.len ∧
      ∀ op st cp, f (s.again op st cp) = (s.again op st cp).waitAt code) :
    s.Waits (fun s => onChannel c code s f) u c code := by
  cases h
  split at hw
  case isFalse => cases hw
  case isTrue hp =>
    obtain ⟨hne, hagain⟩ := hf hw
    refine ⟨hp, hne, ?_, fun op st cp => ?_⟩
    · rw [if_pos hp]
      exact hagain s.op s.runState s.cp
    · exact congrArg _ ((if_pos hp).trans (hagain op st cp))

/-- An operation that looks for the next transition waits where none is available. -/
theorem State.noneAhead_waits (he : earliest (s.ahead c) = none)
    (hw : (s.needsData c code).runState = .waiting) :
    s.hz.get c ≠ s.cap.len ∧ ∀ op st cp, earliest ((s.again op st cp).ahead c) = none ∧
      (s.again op st cp).needsData c code = (s.again op st cp).waitAt code :=
  ⟨(needsData_waits hw).1, fun op st cp => ⟨he, (needsData_waits hw).2 op st cp⟩⟩

theorem advEdgeOp_waits (h : advEdgeOp c code s = .next u) (hw : u.runState = .waiting) :
    s.Waits (advEdgeOp c code) u c code := by
  refine onChannel_waits h hw fun hw => ?_
  split at hw
  case h_1 => exact absurd hw (resumed_ne_waiting _)
  case h_2 he =>
    obtain ⟨hne, hagain⟩ := State.noneAhead_waits he hw
    exact ⟨hne, fun op st cp => by simp only [hagain op st cp]⟩

theorem nextEdgeOp_waits (h : nextEdgeOp c code s = .next u) (hw : u.runState = .waiting) :
    s.Waits (nextEdgeOp c code) u c code := by
  refine onChannel_waits h hw fun hw => ?_
  split at hw
  case h_1 => exact absurd hw (resumed_ne_waiting _)
  case h_2 he =>
    obtain ⟨hne, hagain⟩ := State.noneAhead_waits he hw
    exact ⟨hne, fun op st cp => by simp only [hagain op st cp]⟩

/-- An operation on the sample in a register waits where that sample is beyond the horizon. -/
theorem State.beyond_waits {f g : State → Sample → State}
    (hf : ∀ t, (f s t).runState = s.runState.resumed)
    (hg : ∀ t, (g s t).runState = s.runState.resumed)
    (hw : (withReg r code s fun t =>
      if t ≤ s.pos.get c then f s t else if t.toNat < s.hz.get c then g s t
      else s.needsData c code).runState = .waiting) :
    s.hz.get c ≠ s.cap.len ∧ ∀ op st cp, (withReg r code (s.again op st cp) fun t =>
      if t ≤ s.pos.get c then f (s.again op st cp) t
      else if t.toNat < s.hz.get c then g (s.again op st cp) t
      else (s.again op st cp).needsData c code) = (s.again op st cp).waitAt code := by
  obtain ⟨hwritten, hw⟩ := withReg_waits hw
  split at hw
  case isTrue => exact absurd ((hf _).symm.trans hw) (resumed_ne_waiting _)
  case isFalse hahead =>
    split at hw
    case isTrue => exact absurd ((hg _).symm.trans hw) (resumed_ne_waiting _)
    case isFalse hbeyond =>
      obtain ⟨hne, hagain⟩ := needsData_waits hw
      refine ⟨hne, fun op st cp => ?_⟩
      rw [withReg_written (h := by rwa [again_reg]), again_reg, if_neg hahead, if_neg hbeyond,
        hagain]

theorem advToOp_waits (h : advToOp c r code s = .next u) (hw : u.runState = .waiting) :
    s.Waits (advToOp c r code) u c code :=
  onChannel_waits h hw <| State.beyond_waits (f := fun s _ => s.performing code)
    (g := fun s t => { s.performing code with pos := s.pos.set c t }) (fun _ => rfl) fun _ => rfl

theorem wouldCrossOp_waits (h : wouldCrossOp c r code s = .next u) (hw : u.runState = .waiting) :
    s.Waits (wouldCrossOp c r code) u c code :=
  onChannel_waits h hw <| State.beyond_waits
    (f := fun s _ => { s.performing code with ansBit := false })
    (g := fun s t => { s.performing code with ansBit := s.crosses c t }) (fun _ => rfl) fun _ => rfl

/-! ## The operations that cannot -/

theorem onChannel_goesOn {f : State → State} (h : onChannel c code s f = .next u)
    (hf : (f s).runState = s.runState.resumed) : u.runState ≠ .waiting :=
  onChannel_ind (P := fun u => u.runState ≠ .waiting) h nofun (hf ▸ resumed_ne_waiting _)

theorem levelOp_goesOn (h : levelOp c code s = .next u) : u.runState ≠ .waiting :=
  onChannel_goesOn h rfl

theorem posOp_goesOn (h : posOp c code s = .next u) : u.runState ≠ .waiting :=
  onChannel_goesOn h rfl

theorem hasMoreOp_goesOn (h : hasMoreOp c code s = .next u) : u.runState ≠ .waiting :=
  onChannel_goesOn h rfl

theorem withReg_goesOn {f : Sample → State} (h : (f (s.reg r).val).runState ≠ .waiting) :
    (withReg r code s f).runState ≠ .waiting :=
  withReg_val_ind (P := fun u => u.runState ≠ .waiting) nofun h

theorem State.emit_goesOn (s : State) (code : BitVec 8) (rec : Record) :
    (s.emit code rec).runState ≠ .waiting :=
  resumed_ne_waiting _

theorem pollOp_goesOn (h : pollOp code s = .next u) : u.runState ≠ .waiting := by
  cases h; split
  · exact nofun
  · exact resumed_ne_waiting _

theorem accAddBitOp_goesOn {a : AccSel} {b : Level} (h : accAddBitOp a b code s = .next u) :
    u.runState ≠ .waiting := by
  cases h; split
  · exact nofun
  · simpa using resumed_ne_waiting s.runState

theorem accResetOp_goesOn {a : AccSel} (h : accResetOp a code s = .next u) :
    u.runState ≠ .waiting := by
  cases h
  simpa using resumed_ne_waiting s.runState

theorem emitBitMarkerOp_goesOn {k : MarkerKind} (h : emitBitMarkerOp k code s = .next u) :
    u.runState ≠ .waiting := by
  cases h; split
  · exact resumed_ne_waiting _
  · exact nofun

/-- An operation waits only for data of a present channel that is incomplete. -/
theorem exec_waits {i : Instr} (hop : isOperation i = true) (h : exec i s = .next u)
    (hw : u.runState = .waiting) : ∃ c code, s.Waits (exec i) u c code := by
  cases i with
  | curAdvEdgeClk | curAdvEdgeDout | curAdvEdgeDin | curAdvEdgeEn =>
    exact ⟨_, _, advEdgeOp_waits h hw⟩
  | curAdvToClk | curAdvToDout | curAdvToDin | curAdvToEn => exact ⟨_, _, advToOp_waits h hw⟩
  | curNextEdgeClk | curNextEdgeDout | curNextEdgeDin | curNextEdgeEn =>
    exact ⟨_, _, nextEdgeOp_waits h hw⟩
  | curWouldCrossClk | curWouldCrossDout | curWouldCrossDin | curWouldCrossEn =>
    exact ⟨_, _, wouldCrossOp_waits h hw⟩
  | curLevelClk | curLevelDout | curLevelDin | curLevelEn => exact absurd hw (levelOp_goesOn h)
  | curPosClk | curPosDout | curPosDin | curPosEn => exact absurd hw (posOp_goesOn h)
  | curHasMoreClk | curHasMoreDout | curHasMoreDin | curHasMoreEn =>
    exact absurd hw (hasMoreOp_goesOn h)
  | accResetDout | accResetDin => exact absurd hw (accResetOp_goesOn h)
  | accAddBitDout0 | accAddBitDout1 | accAddBitDin0 | accAddBitDin1 =>
    exact absurd hw (accAddBitOp_goesOn h)
  | poll => exact absurd hw (pollOp_goesOn h)
  | emitStart | emitResult | emitMarkerError | emitDisable =>
    cases h; exact absurd hw (withReg_goesOn (s.emit_goesOn _ _))
  | emitError => cases h; exact absurd hw (withReg_goesOn (withReg_goesOn (s.emit_goesOn _ _)))
  | emitMarkerUp | emitMarkerDown => exact absurd hw (emitBitMarkerOp_goesOn h)
  | procRun | procSetup | procResync | procAdvActiveEnable | procNextActiveEdge | procRaceCheck
  | procGetWord | procSampleData | rdCfg | wrCfg | rdCtrl | wrCtrl | rdStatus | wrStatus | rdRsvd
  | wrRsvd | go | cancel => cases hop

/-! ## The line that waits -/

variable {l : Label} {cd : Code} {after : State → Out}

/-- What decides whether a line performs its operation. -/
structure State.SameBranch (s t : State) : Prop where
  cfgl : t.cfgl = s.cfgl := by rfl
  raceEmit : t.raceEmit = s.raceEmit := by rfl
  nr : t.nr = s.nr := by rfl
  i : t.i = s.i := by rfl
  k : t.k = s.k := by rfl
  mb : t.mb = s.mb := by rfl
  mdir : t.mdir = s.mdir := by rfl

theorem State.SameBranch.operation (hs : s.SameBranch t) (h : line l s = .operation cd after) :
    line l t = .operation cd after := by
  have hp (c : Channel) : t.present c = s.present c := by rw [State.present, hs.cfgl, State.present]
  cases l <;> simp only [line, operate] at h ⊢
  case rc1 => split at h <;> cases h
  case ae1 => rw [hp]; split at h <;> cases h; exact if_neg ‹_›
  case rc10 | gw8 | gw18 | gw20 | sd2 | sd3 | sd4 | sd5 =>
    simp only [hp, hs.raceEmit, hs.i, hs.k, hs.mb, hs.nr, hs.mdir]
    split at h <;> cases h
    exact if_pos ‹_›
  case run1 | run2 | run3 | run4 | su1 | rs1 | ae2 | gw4 | gw5 | gw6 | gw9 | gw10 | gw11 | gw12
    | gw14 | gw15 | gw17 | gw4next | gwRet | sd6 => cases h
  all_goals exact h

/-- After its operation a line does not wait. -/
theorem line_rest_goesOn (hl : line l s = .operation cd after) (hr : u.runState = .running)
    (h : after u = .next t) : t.runState ≠ .waiting := by
  rcases line_rest hl u with ⟨v, hv, hf, -⟩ | ⟨i, m, hi, -, hv⟩
  · cases hv.symm.trans h
    rcases hf.runState with hsame | hfault
    · rw [hsame, hr]; exact nofun
    · rw [hfault]; exact nofun
  · rw [hv] at h
    obtain ⟨w, hw, hcase⟩ := proceed_eq_next h
    rcases exec_second hi hw with ⟨code, rfl⟩ | hdone
    · rcases hcase with ⟨hnot, -⟩ | ⟨-, rfl⟩
      · cases hnot
      · exact nofun
    · have hgoes := hdone.running (inRun_of_running hr)
      rcases hcase with ⟨-, h⟩ | ⟨hnot, -⟩
      · cases h
        rw [State.goto_runState, hgoes]
        exact nofun
      · exact absurd hgoes hnot

/-- The step at the control point, where it waits: nothing but `OP` and `STATE` has changed, and
trying again waits again. -/
theorem pointStep_waits (hin : s.InControl) (h : pointStep s = .next t)
    (hw : t.runState = .waiting) :
    ∃ c code, s.present c = true ∧ s.hz.get c ≠ s.cap.len ∧ t = s.waitAt code ∧
      ∀ cp, decoderStep (s.again code .waiting cp) = .next (s.again code .waiting cp) := by
  rcases pointStep_cases hin h with ⟨hl, rfl⟩ | ⟨l, stack, cd, after, hl, hc, h⟩
  · exact absurd hl (hin.running.mp (by simp [State.inRun, hw]))
  obtain ⟨i, hop, hdec, ⟨hexec, -⟩ | ⟨u, -, -, hrun, hafter⟩⟩ := operation_cases hin hl hc h
  case inr => exact absurd hw (line_rest_goesOn hc hrun hafter)
  case inl =>
    obtain ⟨c, code, hwaits⟩ := exec_waits (operationAt_isOperation hop) hexec hw
    refine ⟨c, code, hwaits.present, hwaits.incomplete, hwaits.eq, fun cp => ?_⟩
    have hl' : (s.again code .waiting cp).ctlp = .line l :: stack := hl
    have hc' : line l (s.again code .waiting cp) = .operation cd after :=
      State.SameBranch.operation (s := s) {} hc
    rw [decoderStep_of_settled rfl (settled_of_operation hl' hc'), pointStep_operation hl' hc',
      execCode_of_decode hdec, hwaits.again]
    rfl

/-- Settles O44: an operation that waits changes only `OP` and `STATE`, and the line that performs
it reads neither, nor the pending cancellation. -/
theorem waitingKeepsState : Obligations.WaitingKeepsState := by
  unfold Obligations.WaitingKeepsState
  refine ⟨fun s t hsound hr ht hw => ?_, fun s hr => ?_⟩
  · have hin := hsound.inControl
    have hf := settle_frame settleFuel s
    rw [hin.decoderStep_eq] at ht
    obtain ⟨c, code, hp, hne, rfl, hagain⟩ := pointStep_waits (settle_inControl hin _) ht hw
    refine ⟨rfl, ⟨c, hp, ?_⟩, hagain _, hagain true⟩
    refine Nat.lt_of_le_of_ne ?_ hne
    change (settle settleFuel s).hz.get c ≤ (settle settleFuel s).cap.len
    rw [hf.hz, hf.cap]
    exact (hsound.horizon c).2
  · rw [decoderStep, hr, if_neg Bool.false_ne_true]

end

end Sys2Proof.Machine
end

section
/-! An absent channel is unread: whatever its waveform, its horizon and its cursor, the decoder's
step is the same and leaves them as they are. -/

namespace Sys2Proof.Machine

open Sys2Proof

/-- A waveform, a horizon and a cursor. -/
structure ChannelData where
  wave : Waveform
  hz : Nat
  pos : Sample

/-- The state with other data for the channel `c`. -/
def State.withData (s : State) (c : Channel) (x : ChannelData) : State :=
  { s with
    cap := { s.cap with wave := s.cap.wave.set c x.wave }
    hz := s.hz.set c x.hz
    pos := s.pos.set c x.pos }

/-- Where the channel `c` is absent, `f` does the same whatever its data, and keeps them. -/
def Carries (c : Channel) (x : ChannelData) (f : State → Out) : Prop :=
  ∀ s t, s.present c = false → f s = .next t → f (s.withData c x) = .next (t.withData c x)

section
variable {s t u : State} {c d : Channel} {x : ChannelData} {r : SampleReg} {code : BitVec 8}

/-! ## What is read and written beside the channel -/

theorem PerChannel.set_comm {α : Type} (q : PerChannel α) (a b : α) (h : d ≠ c) :
    (q.set c a).set d b = (q.set d b).set c a := by
  refine PerChannel.ext_get _ _ fun e => ?_
  by_cases hd : e = d
  · subst hd
    rw [PerChannel.get_set_self, PerChannel.get_set_of_ne _ _ _ _ h, PerChannel.get_set_self]
  · rw [PerChannel.get_set_of_ne _ _ _ _ hd]
    by_cases hc : e = c
    · subst hc; rw [PerChannel.get_set_self, PerChannel.get_set_self]
    · rw [PerChannel.get_set_of_ne _ _ _ _ hc, PerChannel.get_set_of_ne _ _ _ _ hc,
        PerChannel.get_set_of_ne _ _ _ _ hd]

theorem withData_wave (s : State) (x : ChannelData) (h : d ≠ c) :
    (s.withData c x).cap.wave.get d = s.cap.wave.get d :=
  PerChannel.get_set_of_ne _ _ _ _ h

theorem withData_hz (s : State) (x : ChannelData) (h : d ≠ c) :
    (s.withData c x).hz.get d = s.hz.get d :=
  PerChannel.get_set_of_ne _ _ _ _ h

theorem withData_pos (s : State) (x : ChannelData) (h : d ≠ c) :
    (s.withData c x).pos.get d = s.pos.get d :=
  PerChannel.get_set_of_ne _ _ _ _ h

theorem withData_levelOf (s : State) (x : ChannelData) (h : d ≠ c) :
    (s.withData c x).levelOf d = s.levelOf d := by
  unfold State.levelOf
  rw [withData_wave s x h, withData_pos s x h]

theorem withData_ahead (s : State) (x : ChannelData) (h : d ≠ c) :
    (s.withData c x).ahead d = s.ahead d := by
  unfold State.ahead
  rw [withData_wave s x h, withData_pos s x h, withData_hz s x h]

theorem withData_crosses (s : State) (x : ChannelData) (h : d ≠ c) (t : Sample) :
    (s.withData c x).crosses d t = s.crosses d t := by
  unfold State.crosses
  rw [withData_wave s x h, withData_pos s x h]

theorem withData_ite (p : Prop) [Decidable p] (s t : State) :
    (if p then s.withData c x else t.withData c x) = (if p then s else t).withData c x :=
  (apply_ite (fun u => u.withData c x) p s t).symm

theorem withData_reg (s : State) (c : Channel) (x : ChannelData) (r : SampleReg) :
    (s.withData c x).reg r = s.reg r := by
  cases r <;> rfl

theorem withData_acc (s : State) (c : Channel) (x : ChannelData) (a : AccSel) :
    (s.withData c x).acc a = s.acc a := by
  cases a <;> rfl

theorem withData_setReg (s : State) (c : Channel) (x : ChannelData) (r : SampleReg) (v : Sample) :
    (s.withData c x).setReg r v = (s.setReg r v).withData c x := by
  cases r <;> rfl

theorem withData_setAcc (s : State) (c : Channel) (x : ChannelData) (a : AccSel)
    (v : Accumulator) : (s.withData c x).setAcc a v = (s.setAcc a v).withData c x := by
  cases a <;> rfl

theorem withData_needsData (s : State) (x : ChannelData) (h : d ≠ c) :
    (s.withData c x).needsData d code = (s.needsData d code).withData c x := by
  unfold State.needsData
  rw [withData_hz s x h, ← withData_ite]
  rfl

theorem withData_setPos (s : State) (x : ChannelData) (h : d ≠ c) (t : Sample) :
    ({ (s.withData c x).performing code with pos := (s.withData c x).pos.set d t } : State) =
      ({ s.performing code with pos := s.pos.set d t } : State).withData c x := by
  simp only [State.withData, State.performing, PerChannel.set_comm s.pos _ _ h]

theorem withData_withReg {f g : Sample → State} (hf : ∀ v, g v = (f v).withData c x) :
    withReg r code (s.withData c x) g = (withReg r code s f).withData c x := by
  unfold withReg
  rw [withData_reg, hf, ← withData_ite]
  rfl

/-! ## The operations -/

theorem Carries.of_update {f : State → State}
    (hf : ∀ s, s.present c = false → f (s.withData c x) = (f s).withData c x) :
    Carries c x fun s => .next (f s) := by
  intro s t hc h
  cases h
  exact congrArg _ (hf s hc)

theorem onChannel_carries {f : State → State}
    (hf : ∀ s, d ≠ c → f (s.withData c x) = (f s).withData c x) :
    Carries c x fun s => onChannel d code s f := by
  refine .of_update fun s hc => ?_
  by_cases hd : s.present d = true
  · have hne : d ≠ c := by rintro rfl; exact absurd hd (by simp [hc])
    rw [if_pos hd, ← hf s hne]
    exact if_pos hd
  · rw [if_neg hd]
    exact if_neg hd

theorem levelOp_carries : Carries c x (levelOp d code) :=
  onChannel_carries fun s hd => by rw [withData_levelOf s x hd]; rfl

theorem posOp_carries : Carries c x (posOp d code) :=
  onChannel_carries fun s hd => by rw [withData_pos s x hd]; rfl

theorem hasMoreOp_carries : Carries c x (hasMoreOp d code) :=
  onChannel_carries fun s hd => by rw [withData_ahead s x hd]; rfl

theorem advEdgeOp_carries : Carries c x (advEdgeOp d code) := by
  refine onChannel_carries fun s hd => ?_
  rw [withData_ahead s x hd]
  cases earliest (s.ahead d) with
  | some t => exact withData_setPos s x hd t
  | none => exact withData_needsData s x hd

theorem nextEdgeOp_carries : Carries c x (nextEdgeOp d code) := by
  refine onChannel_carries fun s hd => ?_
  rw [withData_ahead s x hd]
  cases earliest (s.ahead d) with
  | some t => rfl
  | none => exact withData_needsData s x hd

theorem advToOp_carries : Carries c x (advToOp d r code) := by
  refine onChannel_carries fun s hd => withData_withReg fun t => ?_
  rw [withData_pos s x hd, withData_hz s x hd, withData_setPos s x hd, withData_needsData s x hd]
  split
  · rfl
  · split <;> rfl

theorem wouldCrossOp_carries : Carries c x (wouldCrossOp d r code) := by
  refine onChannel_carries fun s hd => withData_withReg fun t => ?_
  rw [withData_pos s x hd, withData_hz s x hd, withData_crosses s x hd, withData_needsData s x hd]
  split
  · rfl
  · split <;> rfl

theorem accResetOp_carries {a : AccSel} : Carries c x (accResetOp a code) :=
  .of_update fun s _ => withData_setAcc (s.performing code) c x a _

theorem accAddBitOp_carries {a : AccSel} {b : Level} : Carries c x (accAddBitOp a b code) := by
  refine .of_update fun s _ => ?_
  rw [withData_acc, ← withData_ite, ← withData_setAcc]
  rfl

theorem pollOp_carries : Carries c x (pollOp code) :=
  .of_update fun _ _ => by rw [← withData_ite]; rfl

theorem emitBitMarkerOp_carries {k : MarkerKind} : Carries c x (emitBitMarkerOp k code) := by
  refine .of_update fun s _ => ?_
  change (match s.mb[s.k.toNat]? with | some _ => _ | none => _) = _
  cases s.mb[s.k.toNat]? <;> rfl

theorem emitStartOp_carries : Carries c x (emitStartOp code) :=
  .of_update fun _ _ => withData_withReg fun _ => rfl

theorem emitErrorOp_carries : Carries c x (emitErrorOp code) :=
  .of_update fun _ _ => withData_withReg fun _ => withData_withReg fun _ => rfl

theorem emitDisableOp_carries : Carries c x (emitDisableOp r code) :=
  .of_update fun _ _ => withData_withReg fun _ => rfl

theorem emitErrorMarkerOp_carries : Carries c x (emitErrorMarkerOp code) :=
  .of_update fun _ _ => withData_withReg fun _ => rfl

theorem ne_of_absent (hc : s.present c = false) : .clk ≠ c := by
  rintro rfl
  cases hc

/-- The clock channel is never absent. -/
theorem emitResultOp_carries : Carries c x (emitResultOp code) := by
  refine .of_update fun s hc => withData_withReg fun v => ?_
  have hclk : (s.withData c x).pos.clk = s.pos.clk := withData_pos (d := .clk) s x (ne_of_absent hc)
  rw [hclk]
  rfl

theorem exec_carries {i : Instr} (hop : isOperation i = true) : Carries c x (exec i) := by
  cases i with
  | curLevelClk | curLevelDout | curLevelDin | curLevelEn => exact levelOp_carries
  | curPosClk | curPosDout | curPosDin | curPosEn => exact posOp_carries
  | curHasMoreClk | curHasMoreDout | curHasMoreDin | curHasMoreEn => exact hasMoreOp_carries
  | curAdvEdgeClk | curAdvEdgeDout | curAdvEdgeDin | curAdvEdgeEn => exact advEdgeOp_carries
  | curAdvToClk | curAdvToDout | curAdvToDin | curAdvToEn => exact advToOp_carries
  | curNextEdgeClk | curNextEdgeDout | curNextEdgeDin | curNextEdgeEn => exact nextEdgeOp_carries
  | curWouldCrossClk | curWouldCrossDout | curWouldCrossDin | curWouldCrossEn =>
    exact wouldCrossOp_carries
  | accResetDout | accResetDin => exact accResetOp_carries
  | accAddBitDout0 | accAddBitDout1 | accAddBitDin0 | accAddBitDin1 => exact accAddBitOp_carries
  | poll => exact pollOp_carries
  | emitStart => exact emitStartOp_carries
  | emitError => exact emitErrorOp_carries
  | emitDisable => exact emitDisableOp_carries
  | emitResult => exact emitResultOp_carries
  | emitMarkerError => exact emitErrorMarkerOp_carries
  | emitMarkerUp | emitMarkerDown => exact emitBitMarkerOp_carries
  | procRun | procSetup | procResync | procAdvActiveEnable | procNextActiveEdge | procRaceCheck
  | procGetWord | procSampleData | rdCfg | wrCfg | rdCtrl | wrCtrl | rdStatus | wrStatus | rdRsvd
  | wrRsvd | go | cancel => cases hop

/-! ## The lines -/

theorem withData_enter (s : State) (c : Channel) (x : ChannelData) (l : Label) :
    (s.withData c x).enter l = (s.enter l).withData c x := by
  unfold State.enter
  rw [← withData_ite]
  rfl

theorem withData_call (s : State) (c : Channel) (x : ChannelData) (f e : Label) :
    (s.withData c x).call f e = (s.call f e).withData c x :=
  withData_enter (s.goto f) c x e

theorem withData_enterRace (s : State) (c : Channel) (x : ChannelData) (e : Bool) :
    (s.withData c x).enterRace e = (s.enterRace e).withData c x :=
  withData_enter { s with raceEmit := e } c x .rc1

theorem withData_loopAt (s : State) (c : Channel) (x : ChannelData) (i : Nat) :
    (s.withData c x).loopAt i = (s.loopAt i).withData c x := by
  unfold State.loopAt
  rw [← withData_ite]
  rfl

theorem withData_noteSample (s : State) (c : Channel) (x : ChannelData) :
    (s.withData c x).noteSample = s.noteSample.withData c x := by
  unfold State.noteSample
  rw [← withData_ite, ← withData_withReg fun _ => rfl]
  rfl

theorem withData_callNextActive (s : State) (c : Channel) (x : ChannelData) :
    (s.withData c x).callNextActive = s.callNextActive.withData c x := by
  unfold State.callNextActive
  rw [← withData_ite, ← withData_call]
  rfl

variable {l : Label} {cd : Code} {after : State → Out}

/-- A line without an operation leaves the data of every channel, and reads none. -/
theorem line_silent_withData (h : line l s = .silent t) :
    line l (s.withData c x) = .silent (t.withData c x) := by
  cases l <;> simp only [line, operate] at h ⊢
  case run1 | run2 | run3 | rs1 => cases h; exact congrArg _ (withData_call s c x _ _)
  case run4 | su1 | gw10 | gwRet => cases h; rfl
  case ae2 => cases h; exact congrArg _ (withData_callNextActive s c x)
  case ae1 => split at h <;> cases h; exact if_pos ‹_›
  case rc1 =>
    split at h <;> cases h
    · exact if_pos ‹_›
    · exact if_neg ‹_›
  case rc10 | gw8 | gw18 | gw20 | sd2 | sd3 | sd4 | sd5 =>
    split at h <;> cases h
    exact if_neg ‹_›
  case gw4 | gw4next => cases h; exact congrArg _ (withData_loopAt s c x _)
  case gw5 | gw11 | gw14 => cases h; exact congrArg _ (withData_enterRace (s.goto _) c x _)
  case gw6 | gw15 | gw9 | gw17 => cases h; rw [← withData_ite, ← withData_call]; rfl
  case gw12 =>
    cases h
    rw [← withData_ite, ← withData_withReg fun v =>
      congrArg State.toMarkers (withData_setReg { s with nr := true } c x .ds v)]
    rfl
  case sd6 => cases h; exact congrArg _ (withData_noteSample s c x)
  all_goals cases h

theorem Carries.proceed {f : State → Out} (hf : Carries c x f) (hs : s.present c = false)
    (hafter : ∀ u, f s = .next u → after u = .next t →
      after (u.withData c x) = .next (t.withData c x))
    (h : Machine.proceed (f s) after = .next t) :
    Machine.proceed (f (s.withData c x)) after = .next (t.withData c x) := by
  obtain ⟨u, hu, hcase⟩ := proceed_eq_next h
  rw [hf s u hs hu]
  rcases hcase with ⟨hrun, h⟩ | ⟨hnot, rfl⟩
  · exact (if_pos hrun).trans (hafter u hu h)
  · exact if_neg hnot

/-- A second operation and a `goto`. -/
theorem second_withData {i : Instr} {m : Label} (hi : isSecond i = true)
    (hu : u.present c = false)
    (h : proceed (exec i u) (fun v => .next (v.goto m)) = .next t) :
    proceed (exec i (u.withData c x)) (fun v => .next (v.goto m)) = .next (t.withData c x) := by
  have hop : isOperation i = true := by cases i <;> cases hi <;> rfl
  exact (exec_carries hop).proceed hu (fun v _ ht => by cases ht; rfl) h

/-- The rest of a line too. -/
theorem line_rest_withData (hc : line l s = .operation cd after) (hu : u.present c = false)
    (h : after u = .next t) : after (u.withData c x) = .next (t.withData c x) := by
  cases l <;> simp only [line, operate] at hc
  case rs3 =>
    cases hc; cases h
    rw [← withData_ite, ← withData_withReg fun v =>
      (congrArg (State.call · .rs4 .na1) (withData_setReg _ c x .es v)).trans
        (withData_call _ c x _ _)]
    rfl
  case rc6 | rc8 => cases hc; cases h; rw [← withData_ite]; rfl
  case gw19 => cases hc; exact second_withData rfl hu h
  case sd3 | sd5 => split at hc <;> cases hc; exact second_withData (isSecond_accAddBit _ _) hu h
  case ae1 | rc10 | gw8 | gw18 | sd2 | sd4 => split at hc <;> cases hc; cases h; rfl
  case gw20 =>
    split at hc <;> cases hc
    cases h
    exact congrArg _ (withData_call (u.record .transactionEnd) c x .gwRet .rs1)
  case rc1 => split at hc <;> cases hc
  case run1 | run2 | run3 | run4 | su1 | rs1 | ae2 | gw4 | gw5 | gw6 | gw9 | gw10 | gw11 | gw12
    | gw14 | gw15 | gw17 | gw4next | gwRet | sd6 => cases hc
  all_goals cases hc; cases h; rfl

theorem line_operation_withData (x : ChannelData) (hc : line l s = .operation cd after) :
    line l (s.withData c x) = .operation cd after :=
  State.SameBranch.operation (s := s) {} hc

/-! ## The step, and the statement -/

theorem settle_withData (n : Nat) (s : State) :
    settle n (s.withData c x) = (settle n s).withData c x := by
  induction n generalizing s with
  | zero => rfl
  | succ n ih =>
    match hl : s.ctlp with
    | [] | .word cd :: stack =>
      have htop : s.top = none := by simp [State.top, hl]
      rw [settle_of_settled (settled_of_top_none htop),
        settle_of_settled (settled_of_top_none (s := s.withData c x) htop)]
    | .line l :: stack =>
      have hl' : (s.withData c x).ctlp = .line l :: stack := hl
      cases hc : line l s with
      | silent t => rw [settle_silent hl hc, settle_silent hl' (line_silent_withData hc), ih]
      | operation cd after =>
        rw [settle_of_settled (settled_of_operation hl hc),
          settle_of_settled (settled_of_operation hl' (line_operation_withData x hc))]

theorem pointStep_withData (hin : s.InControl) (hs : s.present c = false)
    (h : pointStep s = .next t) : pointStep (s.withData c x) = .next (t.withData c x) := by
  rcases pointStep_cases hin h with ⟨hl, rfl⟩ | ⟨l, stack, cd, after, hl, hc, h⟩
  · have hr : t.inRun = false := by
      by_contra hr
      exact hin.running.mp (by simpa using hr) hl
    exact pointStep_betweenRuns (s := t.withData c x) hl hr
  · obtain ⟨i, hop, hdec, -⟩ := operation_cases hin hl hc h
    rw [pointStep_operation (s := s.withData c x) hl (line_operation_withData x hc),
      execCode_of_decode hdec]
    rw [execCode_of_decode hdec] at h
    refine (exec_carries (operationAt_isOperation hop)).proceed hs (fun u hu ht => ?_) h
    refine line_rest_withData hc ?_ ht
    rw [State.present, (exec_onward (hin.running.mpr (by simp [hl])) hu).cfgl]
    exact hs

theorem decoderStep_withData (hin : s.InControl) (hs : s.present c = false)
    (h : decoderStep s = .next t) : decoderStep (s.withData c x) = .next (t.withData c x) := by
  have hin' : (s.withData c x).InControl := ⟨hin.stack, hin.running, hin.direction⟩
  rw [hin.decoderStep_eq] at h
  rw [hin'.decoderStep_eq, settle_withData]
  refine pointStep_withData (settle_inControl hin _) ?_ h
  rw [State.present, (settle_frame settleFuel s).cfgl]
  exact hs

/-- Settles O60, line by line: no line reads a channel's data but by an operation, and one on an
absent channel is a fault. -/
theorem absentChannelIsUnread : Obligations.AbsentChannelIsUnread := by
  unfold Obligations.AbsentChannelIsUnread
  intro s t c wave h p hsound hs ht
  have henv := decoderStep_environment ht
  have hstep := decoderStep_withData (x := ⟨wave, h, p⟩) hsound.inControl hs ht
  simpa only [State.withData, henv.1, henv.2.1] using hstep

end

end Sys2Proof.Machine
end

section
/-! Code words: what each field of a word selects, that decoding and encoding invert each other, and
the statements of 30_encoding.md about the three instruction formats. -/

namespace Sys2Proof.Machine

open Sys2Proof

/-! ## Decoding inverts encoding -/

theorem ctrlWrite_of_wf {v : Word} (h : (Instr.wrCtrl v).wf = true) : ctrlWrite v = .wrCtrl v := by
  obtain ⟨hgo, hcancel⟩ : v ≠ 1#32 ∧ v ≠ 2#32 := by simpa [Instr.wf] using h
  rw [ctrlWrite, if_neg hgo, if_neg hcancel]

/-! The four writes of the register window, at every data word (30_encoding.md R88). -/

theorem decodeHa_wrCfg : decodeHa 0x10#8 = fun v => some (.wrCfg v) := rfl
theorem decodeHa_wrCtrl : decodeHa 0x14#8 = fun v => some (ctrlWrite v) := rfl
theorem decodeHa_wrStatus : decodeHa 0x18#8 = fun v => some (.wrStatus v) := rfl
theorem decodeHa_wrRsvd : decodeHa 0x1C#8 = fun v => some (.wrRsvd v) := rfl

theorem decode_encode {i : Instr} (h : i.wf = true) : decode (encode i) = some i := by
  cases i with
  | curAdvToClk r | curAdvToDout r | curAdvToDin r | curAdvToEn r
  | curWouldCrossClk r | curWouldCrossDout r | curWouldCrossDin r | curWouldCrossEn r
  | emitDisable r => cases r <;> rfl
  | procRaceCheck e => cases e <;> rfl
  | wrCfg v => exact congrFun decodeHa_wrCfg v
  | wrCtrl v => exact (congrFun decodeHa_wrCtrl v).trans (congrArg some (ctrlWrite_of_wf h))
  | wrStatus v => exact congrFun decodeHa_wrStatus v
  | wrRsvd v => exact congrFun decodeHa_wrRsvd v
  | _ => rfl

/-- Settles O1, by the constructors of the instruction: without an operand, and at each selector,
the word is a closed one; a host write is its row of the table at every data word. -/
theorem decodeInvertsEncode : Obligations.DecodeInvertsEncode := by
  unfold Obligations.DecodeInvertsEncode
  exact fun _ => decode_encode

/-! ## Encoding inverts decoding -/

theorem plain_eq_some_iff {o : BitVec 32} {i j : Instr} :
    plain o i = some j ↔ o = 0#32 ∧ i = j := by
  simp [plain]

theorem bits_of_sampleSelOf {o : BitVec 32} {r : SampleSel} (h : sampleSelOf o = some r) :
    r.bits = o := by
  unfold sampleSelOf at h
  split at h <;> cases h <;> exact (BitVec.eq_of_toNat_eq ‹_›).symm

theorem bits_of_disableSelOf {o : BitVec 32} {r : DisableSel} (h : disableSelOf o = some r) :
    r.bits = o := by
  unfold disableSelOf at h
  split at h <;> cases h <;> exact (BitVec.eq_of_toNat_eq ‹_›).symm

/-- Only a word of the `HA` format can name an ill-formed instruction, a `CTRL` write. -/
theorem wf_of_fmt_ne_ha {i : Instr} (h : (encode i).fmt ≠ .ha) : i.wf = true := by
  cases i with
  | wrCtrl v => exact absurd rfl h
  | _ => rfl

section
variable {f : Format} {b : BitVec 8} {o : BitVec 32} {i : Instr} {n : Nat}

theorem eq_ofNat_of_toNat_eq {w : Nat} {x : BitVec w} (h : x.toNat = n) :
    x = BitVec.ofNat w n := by
  simp [← h]

/-- A row without an operand. -/
theorem encode_of_plain {row : Instr} (h : plain o row = some i)
    (hrow : encode row = ⟨f, b, 0#32⟩) : encode i = ⟨f, b, o⟩ := by
  obtain ⟨rfl, rfl⟩ := plain_eq_some_iff.mp h
  exact hrow

/-! ### The fields of an `OPC` (30_encoding.md R72 to R77) -/

/-- The row `ooo` = `n` of the cursor class, without an operand. -/
theorem encode_of_cursorRow {row : Channel → Instr} {ooo : BitVec 3} {cc : BitVec 2}
    (hn : ooo.toNat = n) (h : plain o (row (channelOf cc)) = some i)
    (hrow : ∀ cc, encode (row (channelOf cc)) =
      ⟨.opc, 0#2 ++ BitVec.ofNat 3 n ++ 0#1 ++ cc, 0#32⟩) :
    encode i = ⟨.opc, 0#2 ++ ooo ++ 0#1 ++ cc, o⟩ := by
  subst hn
  exact encode_of_plain h (by simpa using hrow cc)

/-- The row `ooo` = `n` of the cursor class, with a sample operand. -/
theorem encode_of_cursorSampleRow {row : Channel → SampleSel → Instr} {ooo : BitVec 3}
    {cc : BitVec 2} (hn : ooo.toNat = n)
    (h : (sampleSelOf o).map (row (channelOf cc)) = some i)
    (hrow : ∀ r cc, encode (row (channelOf cc) r) =
      ⟨.opc, 0#2 ++ BitVec.ofNat 3 n ++ 0#1 ++ cc, r.bits⟩) :
    encode i = ⟨.opc, 0#2 ++ ooo ++ 0#1 ++ cc, o⟩ := by
  subst hn
  obtain ⟨r, hr, rfl⟩ := Option.map_eq_some_iff.mp h
  simpa [bits_of_sampleSelOf hr] using hrow r cc

theorem encode_of_decodeCursor {ooo : BitVec 3} {bit2 : Bool} {cc : BitVec 2}
    (h : decodeCursor ooo bit2 cc o = some i) :
    encode i = ⟨.opc, 0#2 ++ ooo ++ BitVec.ofBool bit2 ++ cc, o⟩ := by
  unfold decodeCursor at h
  cases bit2 with
  | true => cases h
  | false =>
    dsimp only at h
    rw [if_neg Bool.false_ne_true] at h
    split at h
    next hn => exact encode_of_cursorRow hn h (by decide)
    next hn => exact encode_of_cursorRow hn h (by decide)
    next hn => exact encode_of_cursorRow hn h (by decide)
    next hn => exact encode_of_cursorSampleRow hn h (fun r => by cases r <;> decide)
    next hn => exact encode_of_cursorRow hn h (by decide)
    next hn => exact encode_of_cursorSampleRow hn h (fun r => by cases r <;> decide)
    next hn => exact encode_of_cursorRow hn h (by decide)
    next => cases h

/-- The row `ooo` = `n`, `b` = `bit2` of the accumulator class. -/
theorem encode_of_accRow {row : AccSel → Instr} {ooo : BitVec 3} {bit2 : Bool} {aa : BitVec 2}
    (hn : ooo.toNat = n) (h : ((accSelOf aa).bind fun a => plain o (row a)) = some i)
    (hrow : ∀ a aa, accSelOf aa = some a → encode (row a) =
      ⟨.opc, 1#2 ++ BitVec.ofNat 3 n ++ BitVec.ofBool bit2 ++ aa, 0#32⟩) :
    encode i = ⟨.opc, 1#2 ++ ooo ++ BitVec.ofBool bit2 ++ aa, o⟩ := by
  subst hn
  obtain ⟨a, ha, h⟩ := Option.bind_eq_some_iff.mp h
  exact encode_of_plain h (by simpa using hrow a aa ha)

theorem encode_of_decodeAcc {ooo : BitVec 3} {bit2 : Bool} {aa : BitVec 2}
    (h : decodeAcc ooo bit2 aa o = some i) :
    encode i = ⟨.opc, 1#2 ++ ooo ++ BitVec.ofBool bit2 ++ aa, o⟩ := by
  unfold decodeAcc at h
  split at h
  next hn =>
    cases bit2 with
    | true => cases h
    | false => exact encode_of_accRow hn h (fun a => by cases a <;> decide)
  next hn => exact encode_of_accRow hn h (fun a => by cases a <;> cases bit2 <;> decide)
  next => cases h

theorem encode_of_decodeControl {low : BitVec 6} (h : decodeControl low o = some i) :
    encode i = ⟨.opc, 2#2 ++ low, o⟩ := by
  unfold decodeControl at h
  split at h
  next hlow => exact encode_of_plain h (by rw [hlow]; rfl)
  next => cases h

theorem encode_of_decodeEvent {tttt : BitVec 4} {kk : BitVec 2}
    (h : decodeEvent tttt kk o = some i) : encode i = ⟨.opc, 3#2 ++ tttt ++ kk, o⟩ := by
  unfold decodeEvent at h
  split at h
  case h_3 ht hk =>
    obtain ⟨r, hr, rfl⟩ := Option.map_eq_some_iff.mp h
    rw [eq_ofNat_of_toNat_eq ht, eq_ofNat_of_toNat_eq hk, ← bits_of_disableSelOf hr]; rfl
  case h_8 => cases h
  all_goals
    rename_i ht hk
    rw [eq_ofNat_of_toNat_eq ht, eq_ofNat_of_toNat_eq hk]
    exact encode_of_plain h rfl

/-! The three ways to cut an `OPC` into fields; each puts every byte together again. -/

theorem opc_fields {cls : BitVec 2} (hcls : b.extractLsb' 6 2 = cls) :
    cls ++ b.extractLsb' 3 3 ++ BitVec.ofBool (b.getLsbD 2) ++ b.extractLsb' 0 2 = b := by
  subst hcls; revert b; decide

theorem opc_control_fields {cls : BitVec 2} (hcls : b.extractLsb' 6 2 = cls) :
    cls ++ b.extractLsb' 0 6 = b := by
  subst hcls; revert b; decide

theorem opc_event_fields {cls : BitVec 2} (hcls : b.extractLsb' 6 2 = cls) :
    cls ++ b.extractLsb' 2 4 ++ b.extractLsb' 0 2 = b := by
  subst hcls; revert b; decide

theorem encode_of_decodeOpc (h : decodeOpc b o = some i) : encode i = ⟨.opc, b, o⟩ := by
  unfold decodeOpc at h
  split at h
  next hcls => rw [encode_of_decodeCursor h, opc_fields (BitVec.eq_of_toNat_eq hcls)]
  next hcls => rw [encode_of_decodeAcc h, opc_fields (BitVec.eq_of_toNat_eq hcls)]
  next hcls => rw [encode_of_decodeControl h, opc_control_fields (BitVec.eq_of_toNat_eq hcls)]
  next h0 h1 h2 =>
    have hlast : ∀ cls : BitVec 2,
        cls.toNat ≠ 0 → cls.toNat ≠ 1 → cls.toNat ≠ 2 → cls = 3#2 := by decide
    rw [encode_of_decodeEvent h, opc_event_fields (hlast _ h0 h1 h2)]

/-! ### The `PROC` ids and the host accesses (30_encoding.md R75, R86, R88) -/

theorem encode_of_decodeProc (h : decodeProc b o = some i) : encode i = ⟨.proc, b, o⟩ := by
  unfold decodeProc at h
  split at h
  case h_6 hid =>
    obtain rfl : b = 6#8 := BitVec.eq_of_toNat_eq hid
    split at h
    next ho => cases h; rw [ho]; rfl
    next =>
      split at h
      next ho => cases h; rw [ho]; rfl
      next => cases h
  case h_9 => cases h
  all_goals
    rename_i hid
    rw [eq_ofNat_of_toNat_eq hid]
    exact encode_of_plain h rfl

theorem encode_ctrlWrite (v : Word) : encode (ctrlWrite v) = haWord 0x14 v := by
  unfold ctrlWrite
  split
  next hv => rw [hv]; rfl
  next =>
    split
    next hv => rw [hv]; rfl
    next => rfl

theorem ctrlWrite_wf (v : Word) : (ctrlWrite v).wf = true := by
  unfold ctrlWrite
  split
  next => rfl
  next hgo =>
    split
    next => rfl
    next hcancel => simp [Instr.wf, hgo, hcancel]

theorem wf_of_decodeHa (h : decodeHa b o = some i) : i.wf = true := by
  rcases decodeHa_cases h with rfl | rfl | rfl | rfl | rfl | rfl | rfl | rfl
  case inr.inr.inr.inl => exact ctrlWrite_wf o
  all_goals rfl

theorem ha_fields {w : Bool} (hzero : b.extractLsb' 5 3 = 0#3) (hw : b.getLsbD 4 = w)
    (hn : (b.extractLsb' 0 4).toNat = n) :
    b = 0#3 ++ BitVec.ofBool w ++ BitVec.ofNat 4 n := by
  subst hw hn; revert b; decide

theorem encode_of_decodeHa (h : decodeHa b o = some i) : encode i = ⟨.ha, b, o⟩ := by
  unfold decodeHa at h
  split at h
  case isFalse => cases h
  case isTrue hzero =>
    split at h
    case h_9 => cases h
    all_goals
      rename_i hw hoffset
      rw [ha_fields hzero hw hoffset]
    case h_1 | h_3 | h_5 | h_7 => exact encode_of_plain h rfl
    case h_4 => cases h; exact encode_ctrlWrite o
    case h_2 | h_6 | h_8 => cases h; rfl

end

theorem encode_of_decode {c : Code} {i : Instr} (h : decode c = some i) : encode i = c := by
  obtain ⟨f, b, o⟩ := c
  cases f with
  | opc => exact encode_of_decodeOpc h
  | proc => exact encode_of_decodeProc h
  | ha => exact encode_of_decodeHa h

theorem wf_of_decode {c : Code} {i : Instr} (h : decode c = some i) : i.wf = true := by
  by_cases hf : c.fmt = .ha
  · obtain ⟨f, b, o⟩ := c
    subst hf
    exact wf_of_decodeHa h
  · exact wf_of_fmt_ne_ha (encode_of_decode h ▸ hf)

/-- Settles O2, by the fields of the word: each field is the value its row has in the table. -/
theorem encodeInvertsDecode : Obligations.EncodeInvertsDecode := by
  unfold Obligations.EncodeInvertsDecode
  exact fun _ _ h => ⟨wf_of_decode h, encode_of_decode h⟩

/-! ## The codes that decode -/

/-- The instruction of the same row whose operand word is 0. -/
def operandZero : Instr → Instr
  | .curAdvToClk _ => .curAdvToClk .cs
  | .curAdvToDout _ => .curAdvToDout .cs
  | .curAdvToDin _ => .curAdvToDin .cs
  | .curAdvToEn _ => .curAdvToEn .cs
  | .curWouldCrossClk _ => .curWouldCrossClk .cs
  | .curWouldCrossDout _ => .curWouldCrossDout .cs
  | .curWouldCrossDin _ => .curWouldCrossDin .cs
  | .curWouldCrossEn _ => .curWouldCrossEn .cs
  | .emitDisable _ => .emitDisable .rs
  | .procRaceCheck _ => .procRaceCheck false
  | .wrCfg _ => .wrCfg 0
  | .wrCtrl _ | .go | .cancel => .wrCtrl 0
  | .wrStatus _ => .wrStatus 0
  | .wrRsvd _ => .wrRsvd 0
  | i => i

theorem operandZero_wf (i : Instr) : (operandZero i).wf = true := by cases i <;> rfl

theorem encode_operandZero (i : Instr) :
    encode (operandZero i) = { encode i with opnd := 0#32 } := by cases i <;> rfl

/-- A code decodes with some operand word when it decodes with 0. -/
theorem exists_operand_iff (f : Format) (b : BitVec 8) :
    (∃ o, decode ⟨f, b, o⟩ ≠ none) ↔ decode ⟨f, b, 0#32⟩ ≠ none := by
  refine ⟨fun ⟨o, h⟩ => ?_, fun h => ⟨0#32, h⟩⟩
  obtain ⟨i, hi⟩ := Option.ne_none_iff_exists'.mp h
  have hzero := decode_encode (operandZero_wf i)
  rw [encode_operandZero, encode_of_decode hi] at hzero
  simp [hzero]

/-- Settles O3: the operand word 0 speaks for all, so the bytes of each format are compared with its
list. -/
theorem onlyListedCodesDecode : Obligations.OnlyListedCodesDecode := by
  unfold Obligations.OnlyListedCodesDecode
  simp only [exists_operand_iff]
  refine ⟨?_, ?_, ?_⟩
  · decide
  · decide
  · decide

/-! ## Words of the opcode table -/

theorem decodeTableWord_of_encode {nbits w : Nat} {i : Instr} (hwf : i.wf = true)
    (h : encode i = tableCode nbits w) : decodeTableWord nbits w = some i := by
  rw [decodeTableWord, ← h, decode_encode hwf]

/-- Settles O4: the code each word is read as is the code word of its instruction. -/
theorem tableWordsDecode : Obligations.TableWordsDecode := by
  unfold Obligations.TableWordsDecode
  and_intros <;> exact decodeTableWord_of_encode rfl (by decide)

end Sys2Proof.Machine
end

section
/-! Event records: the fields of the header, the reader of the stream, the 40 bytes, and the
statements of 30_encoding.md about `REC`. -/

namespace Sys2Proof.Machine

open Sys2Proof

/-! ## The header (30_encoding.md R79) -/

section
variable (opc : BitVec 8) (err : Bool) (width : BitVec 7)

theorem recHeader_getLsbD (k : Nat) : (recHeader opc err width).getLsbD k =
    if k < 8 then opc.getLsbD k else if k = 8 then err else
    if k < 16 then false else width.getLsbD (k - 16) := by
  simp only [recHeader, BitVec.getLsbD_cast, BitVec.getLsbD_append, BitVec.getLsbD_ofBool]
  grind

@[simp] theorem recHeader_opc : (recHeader opc err width).extractLsb' 0 8 = opc := by
  ext k hk
  simp [recHeader_getLsbD, hk]

@[simp] theorem recHeader_err : (recHeader opc err width)[8] = err := by
  simp [← BitVec.getLsbD_eq_getElem, recHeader_getLsbD]

@[simp] theorem recHeader_width : (recHeader opc err width).extractLsb' 16 7 = width := by
  ext k hk
  simp [recHeader_getLsbD, show ¬ 16 + k < 8 by omega, show 16 + k ≠ 8 by omega,
    BitVec.getLsbD_eq_getElem hk]

@[simp] theorem recHeader_reserved_low : (recHeader opc err width).extractLsb' 9 7 = 0#7 := by
  ext k hk
  simp [recHeader_getLsbD, show ¬ 9 + k < 8 by omega, show 9 + k ≠ 8 by omega,
    show 9 + k < 16 by omega]

@[simp] theorem recHeader_reserved_high : (recHeader opc err width).extractLsb' 23 41 = 0#41 := by
  ext k hk
  simp [recHeader_getLsbD, show ¬ 23 + k < 8 by omega, show 23 + k ≠ 8 by omega,
    show ¬ 23 + k < 16 by omega, show 7 ≤ 23 + k - 16 by omega]

end

/-- Settles O6, by the fields of the header. -/
theorem recordLayout : Obligations.RecordLayout := by
  unfold Obligations.RecordLayout
  simp [Record.words, Record.opc]

/-! ## The reader of the stream (30_encoding.md R84) -/

theorem read_words {r : Record} (h : r.wf = true) : r.words.read = some r := by
  cases r with
  | marker s k => cases k <;> simp [Rec.read, Record.words, Record.opc]
  | result => simp [Rec.read, Record.words, Record.opc, h]
  | _ => simp [Rec.read, Record.words, Record.opc]

/-- The header is made of the `OPC`, `ERR` and `WIDTH` read from it; the `OPC` settles `ERR`, and
`WIDTH` but for a `RESULT`. -/
theorem words_of_read {x : Rec} {r : Record} (h : x.read = some r) :
    r.words = x ∧ r.wf = true := by
  obtain ⟨w0, w1, w2, w3, w4⟩ := x
  unfold Rec.read at h
  dsimp only at h
  generalize w0.extractLsb' 0 8 = opc, w0.getLsbD 8 = err, w0.extractLsb' 16 7 = width at h
  simp only [Option.ite_none_left_eq_some, ne_eq, not_not, Bool.and_eq_true, decide_eq_true_eq,
    not_and] at h
  obtain ⟨rfl, rfl, hwidth, h⟩ := h
  split at h
  case h_8 => cases h
  case h_4 hopc =>
    obtain rfl := eq_ofNat_of_toNat_eq hopc
    obtain ⟨hwf, rfl⟩ : _ ∧ _ = r := by simpa using h
    exact ⟨rfl, hwf⟩
  all_goals
    rename_i hopc
    obtain rfl := eq_ofNat_of_toNat_eq hopc
    obtain rfl := hwidth (by decide)
  case h_2 =>
    obtain ⟨⟨rfl, rfl⟩, rfl⟩ : (w3 = 0 ∧ w4 = 0) ∧ _ := by simpa using h
    exact ⟨rfl, rfl⟩
  all_goals
    obtain ⟨⟨⟨rfl, rfl⟩, rfl⟩, rfl⟩ : ((w2 = 0 ∧ w3 = 0) ∧ w4 = 0) ∧ _ := by simpa using h
    exact ⟨rfl, rfl⟩

/-! ## The 40 bytes (20_memory.md R53) -/

@[simp] theorem length_wordBytes (w : BitVec 64) : (wordBytes w).length = 8 := by
  simp [wordBytes]

theorem wordBytes_getElem? (w : BitVec 64) {k : Nat} (hk : k < 8) :
    (wordBytes w)[k]? = some (w.extractLsb' (8 * k) 8) := by
  simp [wordBytes, hk]

theorem wordOfBytes_getLsbD (bs : List (BitVec 8)) {k : Nat} (hk : k < 64) :
    (wordOfBytes bs).getLsbD k = (bs.getD (k / 8) 0).getLsbD (k % 8) := by
  induction bs generalizing k with
  | nil => simp [wordOfBytes]
  | cons b bs ih =>
    have hcons : wordOfBytes (b :: bs) = (wordOfBytes bs <<< 8) ||| b.setWidth 64 := rfl
    by_cases hlow : k < 8
    · simp [hcons, hk, hlow, Nat.div_eq_of_lt hlow, Nat.mod_eq_of_lt hlow]
    · obtain ⟨m, rfl⟩ := Nat.exists_eq_add_of_le' (Nat.le_of_not_lt hlow)
      have hm : m < 64 := by omega
      simpa [hcons, hk, BitVec.getLsbD_eq_getElem hm] using ih hm

theorem wordOfBytes_wordBytes (w : BitVec 64) : wordOfBytes (wordBytes w) = w := by
  ext k hk
  rw [← BitVec.getLsbD_eq_getElem, wordOfBytes_getLsbD _ hk, List.getD_eq_getElem?_getD,
    wordBytes_getElem? w (by omega), Option.getD_some, BitVec.getLsbD_extractLsb',
    Nat.div_add_mod]
  simp [Nat.mod_lt, BitVec.getLsbD_eq_getElem hk]

@[simp] theorem length_bytes (x : Rec) : x.bytes.length = 40 := by simp [Rec.bytes]

theorem bytes_eq_flatMap (x : Rec) :
    x.bytes = [x.w0, x.w1, x.w2, x.w3, x.w4].flatMap wordBytes := by
  simp [Rec.bytes]

theorem flatMap_wordBytes_getElem? {ws : List (BitVec 64)} {j k : Nat} (hj : j < ws.length)
    (hk : k < 8) :
    (ws.flatMap wordBytes)[8 * j + k]? = some ((ws.getD j 0).extractLsb' (8 * k) 8) := by
  induction ws generalizing j with
  | nil => cases hj
  | cons w ws ih =>
    rw [List.flatMap_cons]
    cases j with
    | zero =>
      rw [List.getElem?_append_left (by simpa using hk), Nat.mul_zero, Nat.zero_add,
        wordBytes_getElem? w hk, List.getD_cons_zero]
    | succ j =>
      rw [List.getElem?_append_right (by simp; omega), length_wordBytes,
        show 8 * (j + 1) + k - 8 = 8 * j + k by omega, ih (Nat.lt_of_succ_lt_succ hj),
        List.getD_cons_succ]

theorem ofBytes_bytes (x : Rec) : Rec.ofBytes x.bytes = some x := by
  simp [Rec.ofBytes, Rec.bytes, List.drop_append, List.drop_eq_nil_of_le,
    wordOfBytes_wordBytes]

/-- Settles O5: the reader by its branches, the bytes word by word. -/
theorem recordsReadBack : Obligations.RecordsReadBack := by
  unfold Obligations.RecordsReadBack
  refine ⟨fun _ => read_words, fun _ _ => words_of_read, fun x => ⟨length_bytes x, ?_,
    ofBytes_bytes x⟩⟩
  rw [bytes_eq_flatMap]
  exact fun _ _ hj hk => flatMap_wordBytes_getElem? (by simpa using hj) hk

end Sys2Proof.Machine
end

section
/-! The cursor operations on a present channel: which operation each instruction is, what each leaves
in each of its branches, and the statements of 40_cursor.md. -/

namespace Sys2Proof.Machine

open Sys2Proof

/-! ## The operation of an instruction, with its code (30_encoding.md R73) -/

section
variable (c : Channel) (r : SampleSel) (s : State)

theorem exec_level_eq : exec (.level c) s = levelOp c (0x08#8 + channelCode c) s := by
  cases c <;> rfl

theorem exec_pos_eq : exec (.pos c) s = posOp c (0x10#8 + channelCode c) s := by
  cases c <;> rfl

theorem exec_advEdge_eq : exec (.advEdge c) s = advEdgeOp c (0x18#8 + channelCode c) s := by
  cases c <;> rfl

theorem exec_advTo_eq :
    exec (.advTo c r) s = advToOp c (selReg r) (0x20#8 + channelCode c) s := by
  cases c <;> rfl

theorem exec_nextEdge_eq : exec (.nextEdge c) s = nextEdgeOp c (0x28#8 + channelCode c) s := by
  cases c <;> rfl

theorem exec_wouldCross_eq :
    exec (.wouldCross c r) s = wouldCrossOp c (selReg r) (0x30#8 + channelCode c) s := by
  cases c <;> rfl

theorem exec_hasMore_eq : exec (.hasMore c) s = hasMoreOp c (0x38#8 + channelCode c) s := by
  cases c <;> rfl

end

section
variable {c : Channel} {r : SampleReg} {code : BitVec 8} {s : State} {t : Sample} {o : Out}

/-! ## Lacking data (20_memory.md R52) -/

theorem State.Complete.ends (h : s.Complete c) (ho : o = .next (s.needsData c code)) :
    o = .next (s.outOfData code) :=
  ho.trans (congrArg _ (State.needsData_of_complete s c code h))

theorem waits_of_not_complete (h : ¬ s.Complete c) (ho : o = .next (s.needsData c code)) :
    o = .next { s with op := code, runState := .waiting } :=
  ho.trans (congrArg _ (State.needsData_of_incomplete s c code h))

/-! ## The level (20_memory.md R47) -/

theorem Waveform.levelAt_eq_filter (w : Waveform) (t : Sample) : w.levelAt t =
    xor w.init ((w.edges.filter (fun e => decide (e ≤ t))).length % 2 == 1) := by
  rw [Waveform.levelAt, List.countP_eq_length_filter]

/-- No transition stands at sample 0. -/
theorem Waveform.levelAt_zero {w : Waveform} {len : Nat} (hwf : w.wf len = true) :
    w.levelAt 0#64 = w.init := by
  simp only [Waveform.wf, Bool.and_eq_true, List.all_eq_true, decide_eq_true_eq] at hwf
  have hnone : w.edges.countP (fun e => decide (e ≤ 0#64)) = 0 := by
    refine List.countP_eq_zero.mpr fun e he hle => ?_
    have hpos := (hwf.2 e he).1
    have hzero : e.toNat ≤ 0 := BitVec.le_def.mp (of_decide_eq_true hle)
    omega
  rw [Waveform.levelAt, hnone, Nat.zero_mod]
  exact Bool.xor_false _

/-! ## The transitions after `P_c` -/

theorem State.crosses_iff : s.crosses c t = true ↔
    ∃ e ∈ (s.cap.wave.get c).edges, s.pos.get c < e ∧ e ≤ t := by
  simp [State.crosses]

theorem State.ahead_nonempty_iff : (!(s.ahead c).isEmpty) = true ↔
    ∃ t ∈ (s.cap.wave.get c).edges, s.pos.get c < t ∧ t.toNat < s.hz.get c := by
  simp [List.eq_nil_iff_forall_not_mem, mem_ahead]

/-! ## An operation on a present channel -/

theorem advEdgeOp_of_next (hp : s.present c = true) (h : s.NextAvailable c t) :
    advEdgeOp c code s = .next { s.performing code with pos := s.pos.set c t } := by
  rw [advEdgeOp, onChannel_present _ hp, earliest_ahead_iff.mpr h]

theorem advEdgeOp_of_none (hp : s.present c = true) (h : s.NoneAvailable c) :
    advEdgeOp c code s = .next (s.needsData c code) := by
  rw [advEdgeOp, onChannel_present _ hp, earliest_ahead_none_iff.mpr h]

theorem nextEdgeOp_of_next (hp : s.present c = true) (h : s.NextAvailable c t) :
    nextEdgeOp c code s = .next { s.performing code with ansPos := t } := by
  rw [nextEdgeOp, onChannel_present _ hp, earliest_ahead_iff.mpr h]

theorem nextEdgeOp_of_none (hp : s.present c = true) (h : s.NoneAvailable c) :
    nextEdgeOp c code s = .next (s.needsData c code) := by
  rw [nextEdgeOp, onChannel_present _ hp, earliest_ahead_none_iff.mpr h]

theorem advToOp_of_le (hp : s.present c = true) (hw : (s.reg r).written = true)
    (h : (s.reg r).val ≤ s.pos.get c) : advToOp c r code s = .next (s.performing code) := by
  rw [advToOp, onChannel_present _ hp, withReg_written _ hw, if_pos h]

theorem advToOp_of_available (hp : s.present c = true) (hw : (s.reg r).written = true)
    (hlt : s.pos.get c < (s.reg r).val) (h : (s.reg r).val.toNat < s.hz.get c) :
    advToOp c r code s =
      .next { s.performing code with pos := s.pos.set c (s.reg r).val } := by
  rw [advToOp, onChannel_present _ hp, withReg_written _ hw, if_neg (BitVec.not_le.mpr hlt),
    if_pos h]

theorem advToOp_of_beyond (hp : s.present c = true) (hw : (s.reg r).written = true)
    (hlt : s.pos.get c < (s.reg r).val) (h : s.hz.get c ≤ (s.reg r).val.toNat) :
    advToOp c r code s = .next (s.needsData c code) := by
  rw [advToOp, onChannel_present _ hp, withReg_written _ hw, if_neg (BitVec.not_le.mpr hlt),
    if_neg (Nat.not_lt.mpr h)]

theorem wouldCrossOp_of_le (hp : s.present c = true) (hw : (s.reg r).written = true)
    (h : (s.reg r).val ≤ s.pos.get c) :
    wouldCrossOp c r code s = .next { s.performing code with ansBit := false } := by
  rw [wouldCrossOp, onChannel_present _ hp, withReg_written _ hw, if_pos h]

theorem wouldCrossOp_of_available (hp : s.present c = true) (hw : (s.reg r).written = true)
    (hlt : s.pos.get c < (s.reg r).val) (h : (s.reg r).val.toNat < s.hz.get c) :
    wouldCrossOp c r code s =
      .next { s.performing code with ansBit := s.crosses c (s.reg r).val } := by
  rw [wouldCrossOp, onChannel_present _ hp, withReg_written _ hw, if_neg (BitVec.not_le.mpr hlt),
    if_pos h]

theorem wouldCrossOp_of_beyond (hp : s.present c = true) (hw : (s.reg r).written = true)
    (hlt : s.pos.get c < (s.reg r).val) (h : s.hz.get c ≤ (s.reg r).val.toNat) :
    wouldCrossOp c r code s = .next (s.needsData c code) := by
  rw [wouldCrossOp, onChannel_present _ hp, withReg_written _ hw, if_neg (BitVec.not_le.mpr hlt),
    if_neg (Nat.not_lt.mpr h)]

end

/-! ## The statements -/

/-- Settles O9, by the first available transition, which is the first one after `P_c`, and by what
becomes of an operation that lacks data. -/
theorem curAdvEdge : Obligations.CurAdvEdge := by
  unfold Obligations.CurAdvEdge
  intro c s hp code
  rw [exec_advEdge_eq]
  exact ⟨fun t hnext => ⟨advEdgeOp_of_next hp hnext, hnext.2.1, hnext.firstAfter.level⟩,
    fun hnone hc => hc.ends (advEdgeOp_of_none hp hnone),
    fun hnone hc => waits_of_not_complete hc (advEdgeOp_of_none hp hnone)⟩

/-- Settles O10, by the place of the operand: at or before `P_c`, available, beyond the horizon. -/
theorem curAdvTo : Obligations.CurAdvTo := by
  unfold Obligations.CurAdvTo
  intro c r s hp hw code t
  rw [exec_advTo_eq]
  exact ⟨advToOp_of_le hp hw, advToOp_of_available hp hw,
    fun hlt hbeyond hc => hc.ends (advToOp_of_beyond hp hw hlt hbeyond),
    fun hlt hbeyond hc => waits_of_not_complete hc (advToOp_of_beyond hp hw hlt hbeyond)⟩

/-- Settles O11, by the first available transition and by what becomes of an operation that lacks
data. -/
theorem curNextEdge : Obligations.CurNextEdge := by
  unfold Obligations.CurNextEdge
  intro c s hp code
  rw [exec_nextEdge_eq]
  exact ⟨fun t hnext => nextEdgeOp_of_next hp hnext,
    fun hnone hc => hc.ends (nextEdgeOp_of_none hp hnone),
    fun hnone hc => waits_of_not_complete hc (nextEdgeOp_of_none hp hnone)⟩

/-- Settles O12, by the place of the operand; the answer is `State.crosses`. -/
theorem curWouldCross : Obligations.CurWouldCross := by
  unfold Obligations.CurWouldCross
  intro c r s hp hw code t
  rw [exec_wouldCross_eq]
  exact ⟨wouldCrossOp_of_le hp hw,
    fun hlt havail => ⟨_, State.crosses_iff, wouldCrossOp_of_available hp hw hlt havail⟩,
    fun hlt hbeyond hc => hc.ends (wouldCrossOp_of_beyond hp hw hlt hbeyond),
    fun hlt hbeyond hc => waits_of_not_complete hc (wouldCrossOp_of_beyond hp hw hlt hbeyond)⟩

/-- Settles O7: the answer is `Waveform.levelAt`, the level R47 gives. -/
theorem curLevel : Obligations.CurLevel := by
  unfold Obligations.CurLevel
  intro c s hp
  dsimp only
  rw [exec_level_eq, ← Waveform.levelAt_eq_filter]
  refine ⟨onChannel_present _ hp, fun hwf hzero => ?_⟩
  rw [hzero, Waveform.levelAt_zero (Capture.wf_wave hwf c)]

/-- Settles O8: on a present channel the operation is its update of the state. -/
theorem curPos : Obligations.CurPos := by
  unfold Obligations.CurPos
  intro c s hp
  rw [exec_pos_eq]
  exact onChannel_present _ hp

/-- Settles O13: the answer is whether anything is ahead of the cursor. -/
theorem curHasMore : Obligations.CurHasMore := by
  unfold Obligations.CurHasMore
  intro c s hp
  rw [exec_hasMore_eq]
  exact ⟨_, State.ahead_nonempty_iff, onChannel_present _ hp⟩

end Sys2Proof.Machine
end

section
/-! The accumulator operations: which operation each instruction is, what each leaves in each of its
branches, where the bits of a word stand, and the statements of 41_accumulator.md. -/

namespace Sys2Proof.Machine

open Sys2Proof

/-! ## The operation of an instruction, with its code (30_encoding.md R74) -/

section
variable (a : AccSel) (b : Level) (s : State)

theorem exec_accReset_eq : exec (.accReset a) s = accResetOp a (0x48#8 + accCode a) s := by
  cases a <;> rfl

theorem exec_accAddBit_eq : exec (.accAddBit a b) s =
    accAddBitOp a b (0x50#8 + accCode a + (if b then 4 else 0)) s := by
  cases a <;> cases b <;> rfl

end

section
variable {a : AccSel} {b : Level} {code : BitVec 8} {s : State} {x : Accumulator}
  {order : ShiftOrder} {n : Nat} {bits : List Level}

/-! ## The two branches of `AccAddBit` (41_accumulator.md R106) -/

theorem accAddBitOp_of_zero (h : (s.acc a).r = 0#7) :
    accAddBitOp a b code s = .next (s.faulted code) :=
  congrArg Host.Outcome.next (if_pos h)

theorem accAddBitOp_of_ne_zero (h : (s.acc a).r ≠ 0#7) : accAddBitOp a b code s =
    .next ((s.performing code).setAcc a ((s.acc a).addBit (cfgOrder s.cfgl) s.N b)) :=
  congrArg Host.Outcome.next (if_neg h)

theorem insertAt_cfgOrder (w : Word) (n r : Nat) :
    insertAt (cfgOrder w) n r = if w.getLsbD 8 = false then r - 1 else n - r := by
  unfold cfgOrder
  cases w.getLsbD 8 <;> rfl

theorem Accumulator.addBit_cfgOrder (x : Accumulator) (w : Word) (n : Nat) (b : Level) :
    x.addBit (cfgOrder w) n b =
      ⟨x.v ||| ((BitVec.ofBool b).setWidth 64 <<<
        (if w.getLsbD 8 = false then x.r.toNat - 1 else n - x.r.toNat)), x.r - 1⟩ := by
  rw [Accumulator.addBit, insertAt_cfgOrder]
  cases b <;> rfl

/-! ## Where the bits stand -/

/-- Accumulator `x` holds `bits`, the first bits on the wire of a word of `n`: as many of the `n`
are missing as `R_a` says, the bit of index `k` stands where `AccAddBit` inserts with `n - k` missing,
and every other bit of `V_a` is 0. -/
structure Accumulator.Holds (x : Accumulator) (order : ShiftOrder) (n : Nat) (bits : List Level) :
    Prop where
  missing : x.r.toNat + bits.length = n
  bit : ∀ k < n, x.v.getLsbD (insertAt order n (n - k)) = bits.getD k false
  above : ∀ j, n ≤ j → x.v.getLsbD j = false

/-- The place of a bit determines its index on the wire. -/
theorem insertAt_inj {k m : Nat} (hk : k < n) (hm : m < n) :
    insertAt order n (n - k) = insertAt order n (n - m) ↔ k = m := by
  cases order <;> simp only [insertAt] <;> omega

theorem Accumulator.holds_reset (order : ShiftOrder) (r : BitVec 7) :
    Accumulator.Holds ⟨0#64, r⟩ order r.toNat [] := by
  constructor <;> simp

theorem Accumulator.addBit_getLsbD {j : Nat} (hj : j < 64) :
    (x.addBit order n b).v.getLsbD j =
      (x.v.getLsbD j || (b && decide (j = insertAt order n x.r.toNat))) := by
  have hbit (k : Nat) : ((1#64) <<< k).getLsbD j = decide (j = k) := by
    rw [← BitVec.twoPow_eq, BitVec.getLsbD_twoPow, Bool.eq_iff_iff]
    simp
    omega
  cases b <;> simp [Accumulator.addBit, hbit]

theorem getD_append_singleton (bits : List Level) (b : Level) (k : Nat) :
    (bits ++ [b]).getD k false = (bits.getD k false || (b && decide (k = bits.length))) := by
  rcases Nat.lt_trichotomy k bits.length with hlt | rfl | hgt
  · simp [List.getElem?_append_left hlt, hlt.ne]
  · simp
  · simp [List.getElem?_append_right hgt.le, hgt.le, hgt.ne', Nat.sub_ne_zero_of_lt hgt]

theorem Accumulator.Holds.addBit (h : x.Holds order n bits) (hn : n ≤ 64) (hr : x.r ≠ 0#7)
    (b : Level) : (x.addBit order n b).Holds order n (bits ++ [b]) := by
  have hmissing := h.missing
  have hless := Accumulator.addBit_r (order := order) (n := n) (b := b) hr
  have hlen : bits.length < n := by omega
  have hplace : x.r.toNat = n - bits.length := by omega
  refine ⟨by simp; omega, fun k hk => ?_, fun j hj => ?_⟩
  · have hin : insertAt order n (n - k) < n := insertAt_lt (by omega) (by omega)
    rw [Accumulator.addBit_getLsbD (by omega), h.bit k hk, hplace, getD_append_singleton]
    simp only [insertAt_inj hk hlen]
  · have hin : insertAt order n x.r.toNat < n := insertAt_lt (by omega) (by omega)
    by_cases hj64 : j < 64
    · rw [Accumulator.addBit_getLsbD hj64, h.above j hj,
        decide_eq_false (show j ≠ insertAt order n x.r.toNat by omega), Bool.and_false,
        Bool.or_false]
    · exact BitVec.getLsbD_of_ge _ _ (by omega)

/-! ## A whole word (41_accumulator.md R104) -/

theorem accAddBit_holds (horder : cfgOrder s.cfgl = order) (hN : s.N = n) (hn : n ≤ 64)
    (h : (s.acc a).Holds order n bits) (hlt : bits.length < n) (b : Level) :
    ∃ t, exec (.accAddBit a b) s = .next t ∧ t.cfgl = s.cfgl ∧
      (t.acc a).Holds order n (bits ++ [b]) := by
  have hr : (s.acc a).r ≠ 0#7 := by have := h.missing; bv_omega
  refine ⟨_, (exec_accAddBit_eq a b s).trans (accAddBitOp_of_ne_zero hr), by simp, ?_⟩
  rw [State.acc_setAcc_self, horder, hN]
  exact h.addBit hn hr b

/-- Adding the rest of a word, bit by bit. -/
theorem addBits_holds {done : List Level} (horder : cfgOrder s.cfgl = order) (hN : s.N = n)
    (hn : n ≤ 64) (h : (s.acc a).Holds order n done) (hlen : done.length + bits.length = n) :
    ∃ t, addBits a bits s = .next t ∧ (t.acc a).Holds order n (done ++ bits) := by
  induction bits generalizing done s with
  | nil => exact ⟨s, rfl, by rwa [List.append_nil]⟩
  | cons b bits ih =>
    rw [List.length_cons] at hlen
    obtain ⟨u, hu, hcfgl, hacc⟩ := accAddBit_holds horder hN hn h (by omega) b
    obtain ⟨t, ht, hword⟩ := ih (by rw [hcfgl, horder]) (by rw [← hN, State.N, hcfgl, State.N])
      hacc (by simp; omega)
    exact ⟨t, by rw [addBits, hu]; exact ht, by simpa using hword⟩

theorem N_le_of_cfgLegal (h : cfgLegal s.cfgl = true) : s.N ≤ 64 := by
  simp only [cfgLegal, Bool.and_eq_true, decide_eq_true_eq] at h
  exact h.1.2

/-- After `AccReset` and the `N` bits of a word the accumulator holds the word. -/
theorem accReset_addBits_holds (a : AccSel) (hn : s.N ≤ 64)
    (hlen : bits.length = s.N) :
    ∃ r t, exec (.accReset a) s = .next r ∧ addBits a bits r = .next t ∧
      (t.acc a).Holds (cfgOrder s.cfgl) s.N bits := by
  obtain ⟨t, ht, hword⟩ := addBits_holds (a := a) (bits := bits) (done := [])
    (s := (s.performing (0x48#8 + accCode a)).setAcc a ⟨0#64, cfgN s.cfgl⟩)
    (order := cfgOrder s.cfgl) (n := s.N) (by simp) (by simp [State.N]) hn
    (by rw [State.acc_setAcc_self]; exact Accumulator.holds_reset _ _) (by simpa using hlen)
  exact ⟨_, t, exec_accReset_eq a s, ht, hword⟩

/-! ## The sum of the weights -/

theorem sum_testBit_eq_mod (m n : Nat) :
    ∑ j ∈ Finset.range n, (m.testBit j).toNat * 2 ^ j = m % 2 ^ n := by
  induction n with
  | zero => simp [Nat.mod_one]
  | succ n ih =>
    rw [Finset.sum_range_succ, ih, Nat.mod_pow_succ, Nat.toNat_testBit, Nat.mul_comm]

/-- The places of the bits of a word are those from 0 to `n - 1`, in one direction or the other. -/
theorem sum_insertAt (order : ShiftOrder) (n : Nat) (f : Nat → Nat) :
    ∑ k ∈ Finset.range n, f (insertAt order n (n - k)) = ∑ j ∈ Finset.range n, f j := by
  cases order with
  | msbFirst =>
    simp only [insertAt, Nat.sub_right_comm n _ 1]
    exact Finset.sum_range_reflect f n
  | lsbFirst =>
    refine Finset.sum_congr rfl fun k hk => ?_
    rw [insertAt, Nat.sub_sub_self (Finset.mem_range.mp hk).le]

/-- The weight of a bit is that of the place it is inserted at. -/
theorem valueOf_eq_sum (order : ShiftOrder) (bits : List Level) : valueOf order bits =
    ∑ k ∈ Finset.range bits.length,
      (bits.getD k false).toNat * 2 ^ insertAt order bits.length (bits.length - k) := by
  refine congrArg List.sum (List.map_congr_left fun k hk => ?_)
  have hk := List.mem_range.mp hk
  cases order with
  | msbFirst => rw [insertAt, Nat.sub_right_comm]
  | lsbFirst => rw [insertAt, Nat.sub_sub_self hk.le]

theorem Accumulator.Holds.lt_two_pow (h : x.Holds order n bits) : x.v.toNat < 2 ^ n :=
  Nat.lt_pow_two_of_testBit _ fun j hj => by rw [BitVec.testBit_toNat, h.above j hj]

/-- The value law, of a whole word. -/
theorem Accumulator.Holds.toNat_eq_valueOf (h : x.Holds order n bits) (hlen : bits.length = n) :
    x.v.toNat = valueOf order bits := by
  subst hlen
  calc x.v.toNat
      = ∑ j ∈ Finset.range bits.length, (x.v.toNat.testBit j).toNat * 2 ^ j := by
        rw [sum_testBit_eq_mod, Nat.mod_eq_of_lt h.lt_two_pow]
    _ = ∑ k ∈ Finset.range bits.length,
          (x.v.toNat.testBit (insertAt order bits.length (bits.length - k))).toNat *
            2 ^ insertAt order bits.length (bits.length - k) :=
        (sum_insertAt order _ fun j => (x.v.toNat.testBit j).toNat * 2 ^ j).symm
    _ = valueOf order bits := by
        rw [valueOf_eq_sum]
        refine Finset.sum_congr rfl fun k hk => ?_
        rw [BitVec.testBit_toNat, h.bit k (Finset.mem_range.mp hk)]

theorem Accumulator.Holds.getLsbD_msbFirst {j : Nat} (h : x.Holds .msbFirst n bits) (hj : j < n) :
    x.v.getLsbD j = bits.getD (n - 1 - j) false := by
  rw [← h.bit (n - 1 - j) (by omega), insertAt, show n - (n - 1 - j) - 1 = j by omega]

theorem Accumulator.Holds.getLsbD_lsbFirst {j : Nat} (h : x.Holds .lsbFirst n bits) (hj : j < n) :
    x.v.getLsbD j = bits.getD j false := by
  rw [← h.bit j hj, insertAt, Nat.sub_sub_self hj.le]

end

/-! ## The statements -/

/-- Settles O16: the two branches of the operation, the place of the bit by the order. -/
theorem accAddBit : Obligations.AccAddBit := by
  unfold Obligations.AccAddBit
  intro a b s
  dsimp only
  rw [exec_accAddBit_eq]
  refine ⟨accAddBitOp_of_zero, fun hr ha => ?_, fun hr ha => ?_⟩
  all_goals
    rw [accAddBitOp_of_ne_zero hr, Accumulator.addBit_cfgOrder]
    subst ha
    rfl

/-- Settles O17: the bits of the word stand in the accumulator at the places of their weights. -/
theorem valueLaw : Obligations.ValueLaw := by
  unfold Obligations.ValueLaw
  intro a bits s hlegal hlen
  obtain ⟨r, t, hr, ht, hword⟩ := accReset_addBits_holds a (N_le_of_cfgLegal hlegal) hlen
  have hmissing := hword.missing
  exact ⟨r, t, hr, ht, hword.toNat_eq_valueOf hlen, hword.lt_two_pow, by bv_omega⟩

/-- Settles O18: at both places stands the bit of index `N - 1 - j` on the wire. -/
theorem bitReversalLaw : Obligations.BitReversalLaw := by
  unfold Obligations.BitReversalLaw
  intro a bits s u hlegal hN hlen hmsb hlsb
  have hn := N_le_of_cfgLegal hlegal
  obtain ⟨s₁, s₂, hs₁, hs₂, hs⟩ := accReset_addBits_holds a hn hlen
  obtain ⟨u₁, u₂, hu₁, hu₂, hu⟩ := accReset_addBits_holds a (hN ▸ hn) (hlen.trans hN)
  rw [hmsb] at hs
  rw [hlsb, ← hN] at hu
  refine ⟨s₁, s₂, u₁, u₂, hs₁, hs₂, hu₁, hu₂, fun j hj => ?_⟩
  rw [hs.getLsbD_msbFirst hj, hu.getLsbD_lsbFirst (by omega)]

/-- Settles O15: the reset of each accumulator, and the operation of each of the two lines. -/
theorem accReset : Obligations.AccReset := by
  unfold Obligations.AccReset
  refine ⟨fun s => ⟨exec_accReset_eq .dout s, exec_accReset_eq .din s⟩, fun s rest =>
    ⟨fun h => ?_, fun h => ?_⟩⟩
  all_goals
    rw [State.fetch, h]
    rfl

end Sys2Proof.Machine
end

section
/-! Straight runs of the decoder: the rule of a line that performs an operation, for each operation
in a run whose schedule is empty, and the lines without an operation before it. -/

namespace Sys2Proof.Machine

open Sys2Proof

/-! ## Runs -/

/-- From `s` the machine comes to `t` in one or more steps. -/
def State.Reaches (s t : State) : Prop := ∃ k, steps (k + 1) s = .next t

/-- The run goes on, and the schedule is empty: the decoder steps (00_scope.md R13). -/
structure State.Ready (s : State) : Prop where
  running : s.runState = .running
  env : s.env = []

/-- The state with control at `l`, to return to what stands on `stack`. -/
def State.atLine (s : State) (l : Label) (stack : List Point) : State :=
  { s with ctlp := .line l :: stack }

section
variable {s t u : State} {l : Label} {stack : List Point}

theorem steps_succ (h : step s = .next t) (k : Nat) : steps (k + 1) s = steps k t := by
  rw [steps, h]

theorem steps_two (h : step s = .next t) (k : step t = .next u) : steps 2 s = .next u := by
  rw [steps_succ h 1, steps_succ k 0, steps]

theorem steps_add {j : Nat} (h : steps j s = .next t) (k : Nat) :
    steps (j + k) s = steps k t := by
  induction j generalizing s with
  | zero => cases h; rw [Nat.zero_add]
  | succ j ih =>
    rw [steps] at h
    split at h
    case h_1 u hu => rw [Nat.succ_add, steps_succ hu, ih h]
    all_goals cases h

theorem State.Reaches.single (h : step s = .next t) : s.Reaches t := ⟨0, steps_succ h 0⟩

theorem State.Reaches.trans (h : s.Reaches t) (k : t.Reaches u) : s.Reaches u := by
  obtain ⟨j, hj⟩ := h
  obtain ⟨i, hi⟩ := k
  exact ⟨j + 1 + i, (steps_add hj (i + 1)).trans hi⟩

theorem State.Reaches.head (h : step s = .next t) (k : t.Reaches u) : s.Reaches u :=
  (single h).trans k

theorem State.Reaches.tail (h : s.Reaches t) (k : step t = .next u) : s.Reaches u :=
  h.trans (single k)

theorem State.Reaches.of_step_eq (h : step s = step t) (k : t.Reaches u) : s.Reaches u := by
  obtain ⟨j, hj⟩ := k
  exact ⟨j, by rw [← hj, steps, steps, h]⟩

theorem State.Ready.inRun (hs : s.Ready) : s.inRun = true := by
  rw [State.inRun, hs.running]
  rfl

theorem State.Ready.atLine (hs : s.Ready) (l : Label) (stack : List Point) :
    (s.atLine l stack).Ready :=
  ⟨hs.running, hs.env⟩

theorem State.atLine_self (hl : s.ctlp = .line l :: stack) : s.atLine l stack = s := by
  rw [State.atLine, ← hl]

theorem State.enter_eq_atLine (h : s.ctlp.length < 4) (l : Label) :
    s.enter l = s.atLine l s.ctlp :=
  s.enter_of_lt l h

theorem State.call_eq_atLine {f e : Label} (hl : s.ctlp = .line l :: stack)
    (hd : stack.length < 3) : s.call f e = s.atLine e (.line f :: stack) := by
  have htail : s.ctlp.tail = stack := by rw [hl, List.tail_cons]
  rw [State.call, State.enter_eq_atLine (by simp [htail]; omega), State.goto, htail]
  rfl

theorem State.performing_of_running (h : s.runState = .running) (code : BitVec 8) :
    s.performing code = { s with op := code } := by
  rw [State.performing, h, RunState.resumed_running, ← h]

/-! ## A line without an operation (00_scope.md R13) -/

/-- The step of the line is the step of the state it leaves. -/
theorem State.Ready.step_silent (hs : s.Ready) (hd : stack.length ≤ 3)
    (ht : line l (s.atLine l stack) = .silent t) (hr : t.Ready) :
    step (s.atLine l stack) = step t := by
  have hl : (s.atLine l stack).ctlp = .line l :: stack := rfl
  have hbound : silentBoundOf t.ctlp ≤ 39 := by
    have hnearer := line_silent_bound hl ht
    have hfuel := silentBoundOf_fuel (ctlp := (s.atLine l stack).ctlp) (Nat.succ_le_succ hd)
    unfold settleFuel at hfuel
    omega
  rw [step_of_env_nil (hs.atLine l stack).env, step_of_env_nil hr.env, decoderStep, decoderStep,
    if_pos (hs.atLine l stack).inRun, if_pos hr.inRun]
  exact congrArg pointStep ((settle_silent hl ht 39).trans
    (settle_fuel 39 t hbound settleFuel (by decide)).symm)

/-! ## A line with an operation -/

section
variable {i : Instr} {f : State → State}

theorem State.Ready.step_eq_proceed (hs : s.Ready)
    (hc : line l (s.atLine l stack) = operate (encode i) f) (hi : i.wf = true) :
    step (s.atLine l stack) = proceed (exec i (s.atLine l stack)) fun u => .next (f u) := by
  have hl : (s.atLine l stack).ctlp = .line l :: stack := rfl
  rw [step_of_env_nil (hs.atLine l stack).env,
    decoderStep_of_settled (hs.atLine l stack).inRun (settled_of_operation hl hc),
    pointStep_operation hl hc, execCode_of_decode (decode_encode hi)]

/-- The operation proceeds, and the rest of the line follows. -/
theorem State.Ready.step_performed (hs : s.Ready)
    (hc : line l (s.atLine l stack) = operate (encode i) f) (hi : i.wf = true)
    (hx : exec i (s.atLine l stack) = .next u) (hu : u.runState = .running) :
    step (s.atLine l stack) = .next (f u) := by
  rw [hs.step_eq_proceed hc hi, hx, proceed, if_pos hu]

/-- The operation ends the run. -/
theorem State.Ready.step_ended (hs : s.Ready)
    (hc : line l (s.atLine l stack) = operate (encode i) f) (hi : i.wf = true)
    (hx : exec i (s.atLine l stack) = .next u) (hu : u.runState ≠ .running) :
    step (s.atLine l stack) = .next u := by
  rw [hs.step_eq_proceed hc hi, hx, proceed, if_neg hu]

end

end

/-! ## The operations in a run that goes on (40_cursor.md, 45_events.md) -/

section
variable {s : State} {c : Channel} {r : SampleSel} {t : Sample}

theorem exec_level_running (hr : s.runState = .running) (hp : s.present c = true) :
    exec (.level c) s =
      .next { s with op := 0x08#8 + channelCode c, ansBit := s.levelOf c } := by
  rw [exec_level_eq, levelOp, onChannel_present _ hp, State.performing_of_running hr]

theorem exec_pos_running (hr : s.runState = .running) (hp : s.present c = true) :
    exec (.pos c) s =
      .next { s with op := 0x10#8 + channelCode c, ansPos := s.pos.get c } := by
  rw [exec_pos_eq, posOp, onChannel_present _ hp, State.performing_of_running hr]

theorem exec_advEdge_running (hr : s.runState = .running) (hp : s.present c = true)
    (h : s.NextAvailable c t) :
    exec (.advEdge c) s =
      .next { s with op := 0x18#8 + channelCode c, pos := s.pos.set c t } := by
  rw [exec_advEdge_eq, advEdgeOp_of_next hp h, State.performing_of_running hr]

theorem exec_advEdge_ends (hp : s.present c = true) (h : s.NoneAvailable c)
    (hc : s.Complete c) : exec (.advEdge c) s = .next (s.outOfData (0x18#8 + channelCode c)) := by
  rw [exec_advEdge_eq]
  exact hc.ends (advEdgeOp_of_none hp h)

theorem PerChannel.set_get_self {α : Type} (q : PerChannel α) (c : Channel) :
    q.set c (q.get c) = q := by
  cases c <;> rfl

/-- An available operand that is not behind the cursor, equal to it or later. -/
theorem exec_advTo_running (hr : s.runState = .running) (hp : s.present c = true)
    (hw : (s.reg (selReg r)).written = true) (hle : s.pos.get c ≤ (s.reg (selReg r)).val)
    (h : (s.reg (selReg r)).val.toNat < s.hz.get c) :
    exec (.advTo c r) s = .next { s with
      op := 0x20#8 + channelCode c, pos := s.pos.set c (s.reg (selReg r)).val } := by
  rw [exec_advTo_eq]
  by_cases hge : (s.reg (selReg r)).val ≤ s.pos.get c
  · rw [advToOp_of_le hp hw hge, State.performing_of_running hr, BitVec.le_antisymm hge hle,
      PerChannel.set_get_self]
  · rw [advToOp_of_available hp hw (BitVec.not_le.mp hge) h, State.performing_of_running hr]

theorem exec_emitStart_running (hr : s.runState = .running) (hw : s.cs.written = true) :
    exec .emitStart s = .next { s with op := 0xC4, sink := s.sink ++ [Record.start s.cs.val] } := by
  change emitStartOp _ s = _
  rw [emitStartOp, withReg_written (r := .cs) _ hw, State.emit, State.performing_of_running hr]
  rfl

theorem exec_emitMarkerError_running (hr : s.runState = .running) (hw : s.cs.written = true) :
    exec .emitMarkerError s =
      .next { s with op := 0xD6, sink := s.sink ++ [Record.marker s.cs.val .error] } := by
  change emitErrorMarkerOp _ s = _
  rw [emitErrorMarkerOp, withReg_written (r := .cs) _ hw, State.emit,
    State.performing_of_running hr]
  rfl

theorem exec_emitError_running (hr : s.runState = .running) (he : s.es.written = true)
    (hw : s.cs.written = true) :
    exec .emitError s =
      .next { s with op := 0xC8, sink := s.sink ++ [Record.error s.es.val s.cs.val] } := by
  change emitErrorOp _ s = _
  rw [emitErrorOp, withReg_written (r := .es) _ he, withReg_written (r := .cs) _ hw, State.emit,
    State.performing_of_running hr]
  rfl

end

end Sys2Proof.Machine
end

section
/-! The next active-going enable edge, the steps of `NEXT_ACTIVE_EDGE`, `ADV_ACTIVE_ENABLE` and
`RESYNC`, and the statements of 42_resync.md. -/

namespace Sys2Proof.Machine

open Sys2Proof

/-! ## The next active-going enable edge (42_resync.md R112) -/

section
variable {s : State} {c : Channel} {t e : Sample}

theorem State.noneAvailable_or_next (s : State) (c : Channel) :
    s.NoneAvailable c ∨ ∃ t, s.NextAvailable c t := by
  cases he : earliest (s.ahead c) with
  | none => exact .inl (earliest_ahead_none_iff.mp he)
  | some t => exact .inr ⟨t, earliest_ahead_iff.mp he⟩

theorem Capture.edge_lt_len {cap : Capture} (hwf : cap.wf = true)
    (h : t ∈ (cap.wave.get c).edges) : t.toNat < cap.len := by
  have hwave := Capture.wf_wave hwf c
  simp only [Waveform.wf, Bool.and_eq_true, List.all_eq_true, decide_eq_true_eq] at hwave
  exact (hwave.2 t h).2

/-- In a complete channel the transitions of every channel are available. -/
theorem State.Complete.available {d : Channel} (hc : s.Complete d) (hwf : s.cap.wf = true)
    (h : t ∈ (s.cap.wave.get c).edges) : t.toNat < s.hz.get d :=
  (Capture.edge_lt_len hwf h).trans_eq hc.symm

theorem State.NextActive.unique {u : Sample} (h : s.NextActive t) (k : s.NextActive u) : t = u := by
  obtain ⟨ht, hpt, hat, hleast⟩ := h
  obtain ⟨hu, hpu, hau, kleast⟩ := k
  exact BitVec.le_antisymm (hleast u hu hpu hau) (kleast t ht hpt hat)

/-- With the enable inactive its next transition is the next active-going edge. -/
theorem State.NextAvailable.nextActive (h : s.NextAvailable .en e) (hwf : s.cap.wf = true)
    (hlev : s.levelOf .en ≠ s.enpol) : s.NextActive e := by
  have hlevel := h.firstAfter.level hwf
  obtain ⟨hmem, hlt, hleast⟩ := h.firstAfter
  exact ⟨hmem, hlt, hlevel.trans (Bool.not_eq.mpr hlev), fun u hu hpu _ => hleast u hu hpu⟩

/-- With the enable active its next transition leaves the active level. -/
theorem State.NextAvailable.inactive (h : s.NextAvailable .en e) (hwf : s.cap.wf = true)
    (hlev : s.levelOf .en = s.enpol) : s.cap.wave.en.levelAt e ≠ s.enpol := by
  have hlevel : s.cap.wave.en.levelAt e = !s.levelOf .en := h.firstAfter.level hwf
  rw [hlevel, hlev]
  exact Bool.not_ne_self _

/-- With the enable active the active-going edges after the cursor are those after its next
transition. -/
theorem State.NextAvailable.nextActive_iff (h : s.NextAvailable .en e) (hwf : s.cap.wf = true)
    (hlev : s.levelOf .en = s.enpol) :
    { s with pos := s.pos.set .en e }.NextActive t ↔ s.NextActive t := by
  obtain ⟨-, hpe, hleast⟩ := h.firstAfter
  have hpast : ∀ u ∈ s.cap.wave.en.edges, s.cap.wave.en.levelAt u = s.enpol →
      (e < u ↔ s.pos.en < u) := fun u hu hact =>
    ⟨BitVec.lt_trans hpe, fun hpu => BitVec.not_le.mp fun hue =>
      h.inactive hwf hlev (BitVec.le_antisymm hue (hleast u hu hpu) ▸ hact)⟩
  constructor
  · rintro ⟨ht, het, hact, hmin⟩
    exact ⟨ht, (hpast t ht hact).mp het, hact,
      fun u hu hpu hau => hmin u hu ((hpast u hu hau).mpr hpu) hau⟩
  · rintro ⟨ht, hpt, hact, hmin⟩
    exact ⟨ht, (hpast t ht hact).mpr hpt, hact,
      fun u hu heu hau => hmin u hu ((hpast u hu hau).mp heu) hau⟩

theorem State.NextActive.exists_next (h : s.NextActive t) (hwf : s.cap.wf = true)
    (hc : s.Complete .en) : ∃ e, s.NextAvailable .en e := by
  obtain ⟨hmem, hlt, -, -⟩ := h
  exact (s.noneAvailable_or_next .en).resolve_left fun hnone =>
    hnone t hmem hlt (hc.available (c := .en) hwf hmem)

theorem State.NextActive.nextAvailable (h : s.NextActive t) (hwf : s.cap.wf = true)
    (hc : s.Complete .en) (hlev : s.levelOf .en ≠ s.enpol) : s.NextAvailable .en t := by
  obtain ⟨e, he⟩ := h.exists_next hwf hc
  exact (he.nextActive hwf hlev).unique h ▸ he

theorem State.noneAvailable_of_not_nextActive (h : ∀ t, ¬ s.NextActive t) (hwf : s.cap.wf = true)
    (hlev : s.levelOf .en ≠ s.enpol) : s.NoneAvailable .en :=
  (s.noneAvailable_or_next .en).resolve_right fun ⟨e, he⟩ => h e (he.nextActive hwf hlev)

end

/-! ## The lines that look for it -/

/-- The three lines of `NEXT_ACTIVE_EDGE`, wherever they stand: `ask` queries the enable's level,
`leave` crosses the edge that ends an active level, and `reach` crosses the active-going edge and
goes on with `after`. -/
structure EdgeSearch (ask leave reach : Label) (after : State → State) : Prop where
  ask_eq : ∀ s, line ask s = operate (encode (.level .en)) fun t =>
    t.goto (if t.ansBit = t.enpol then leave else reach)
  leave_eq : ∀ s, line leave s = operate (encode (.advEdge .en)) fun t => t.goto reach
  reach_eq : ∀ s, line reach s = operate (encode (.advEdge .en)) after

theorem nextActiveEdge_search : EdgeSearch .na1 .na2 .na3 State.ret :=
  ⟨fun _ => rfl, fun _ => rfl, fun _ => rfl⟩

/-- `NEXT_ACTIVE_EDGE` in the place of `AE.2` (log entry 8). -/
theorem inPlace_search : EdgeSearch .ae2n1 .ae2n2 .ae2n3 fun s => s.goto .ae3 :=
  ⟨fun _ => rfl, fun _ => rfl, fun _ => rfl⟩

section
variable {s : State} {t : Sample} {stack : List Point} {ask leave reach : Label}
  {after : State → State}

theorem EdgeSearch.ask_step (h : EdgeSearch ask leave reach after) (hs : s.Ready)
    (hp : s.present .en = true) :
    step (s.atLine ask stack) = .next ({ s with op := 0x0B, ansBit := s.levelOf .en }.atLine
      (if s.levelOf .en = s.enpol then leave else reach) stack) :=
  hs.step_performed (h.ask_eq _) rfl (exec_level_running hs.running hp) hs.running

theorem EdgeSearch.leave_step (h : EdgeSearch ask leave reach after) (hs : s.Ready)
    (hp : s.present .en = true) (hnext : s.NextAvailable .en t) :
    step (s.atLine leave stack) =
      .next ({ s with op := 0x1B, pos := s.pos.set .en t }.atLine reach stack) :=
  hs.step_performed (h.leave_eq _) rfl (exec_advEdge_running hs.running hp hnext) hs.running

theorem EdgeSearch.reach_step (h : EdgeSearch ask leave reach after) (hs : s.Ready)
    (hp : s.present .en = true) (hnext : s.NextAvailable .en t) :
    step (s.atLine reach stack) =
      .next (after ({ s with op := 0x1B, pos := s.pos.set .en t }.atLine reach stack)) :=
  hs.step_performed (h.reach_eq _) rfl (exec_advEdge_running hs.running hp hnext) hs.running

/-- The enable has no transition left: the run ends, at either line that crosses one. -/
theorem crossing_ends {l : Label} {f : State → State} (hs : s.Ready) (hp : s.present .en = true)
    (hl : line l (s.atLine l stack) = operate (encode (.advEdge .en)) f)
    (hnone : s.NoneAvailable .en) (hc : s.Complete .en) :
    step (s.atLine l stack) = .next (s.outOfData 0x1B) :=
  hs.step_ended hl rfl (exec_advEdge_ends hp hnone hc) (by simp [State.outOfData])

/-- The search comes to the next active-going edge. -/
theorem EdgeSearch.reaches (h : EdgeSearch ask leave reach after) (hs : s.Ready)
    (hp : s.present .en = true) (hwf : s.cap.wf = true) (hc : s.Complete .en)
    (hnext : s.NextActive t) :
    (s.atLine ask stack).Reaches (after ({ s with
      pos := s.pos.set .en t, op := 0x1B, ansBit := s.levelOf .en }.atLine reach stack)) := by
  have hask := h.ask_step (stack := stack) hs hp
  by_cases hact : s.levelOf .en = s.enpol
  · rw [if_pos hact] at hask
    obtain ⟨e, he⟩ := hnext.exists_next hwf hc
    have hlater := ((he.nextActive_iff hwf hact).mpr hnext).nextAvailable hwf hc
      (he.inactive hwf hact)
    exact .head hask (.head (h.leave_step ⟨hs.running, hs.env⟩ hp he)
      (.single (h.reach_step ⟨hs.running, hs.env⟩ hp hlater)))
  · rw [if_neg hact] at hask
    exact .head hask (.single (h.reach_step ⟨hs.running, hs.env⟩ hp
      (hnext.nextAvailable hwf hc hact)))

/-- Where no active-going edge is left, the search ends the run. -/
theorem EdgeSearch.ends (h : EdgeSearch ask leave reach after) (hs : s.Ready)
    (hp : s.present .en = true) (hwf : s.cap.wf = true) (hc : s.Complete .en)
    (hno : ∀ t, ¬ s.NextActive t) : ∃ p, (s.atLine ask stack).Reaches
      ({ s with pos := p, ansBit := s.levelOf .en }.outOfData 0x1B) := by
  have hask := h.ask_step (stack := stack) hs hp
  by_cases hact : s.levelOf .en = s.enpol
  · rw [if_pos hact] at hask
    obtain hnone | ⟨e, he⟩ := s.noneAvailable_or_next .en
    · exact ⟨s.pos, .head hask
        (.single (crossing_ends ⟨hs.running, hs.env⟩ hp (h.leave_eq _) hnone hc))⟩
    · have hnone := State.noneAvailable_of_not_nextActive
        (fun t ht => hno t ((he.nextActive_iff hwf hact).mp ht)) hwf (he.inactive hwf hact)
      exact ⟨s.pos.set .en e, .head hask (.head (h.leave_step ⟨hs.running, hs.env⟩ hp he)
        (.single (crossing_ends ⟨hs.running, hs.env⟩ hp (h.reach_eq _) hnone hc)))⟩
  · rw [if_neg hact] at hask
    exact ⟨s.pos, .head hask (.single (crossing_ends ⟨hs.running, hs.env⟩ hp (h.reach_eq _)
      (State.noneAvailable_of_not_nextActive hno hwf hact) hc))⟩

/-- `NEXT_ACTIVE_EDGE` returns to its caller's label `m` at the next active-going edge. -/
theorem na1_reaches {m : Label} (hs : s.Ready) (hp : s.present .en = true) (hwf : s.cap.wf = true)
    (hc : s.Complete .en) (hnext : s.NextActive t) :
    (s.atLine .na1 (.line m :: stack)).Reaches ({ s with
      pos := s.pos.set .en t, op := 0x1B, ansBit := s.levelOf .en }.atLine m stack) :=
  nextActiveEdge_search.reaches hs hp hwf hc hnext

end

/-! ## The lines of `ADV_ACTIVE_ENABLE` (42_resync.md R113) -/

section
variable {s : State} {t : Sample} {stack : List Point}

/-- With no enable channel `CS` takes the clock's position. -/
theorem ae1_step_noEnable (hs : s.Ready) (hp : s.present .en = false) :
    step (s.atLine .ae1 stack) = .next { s with
      op := 0x10, ansPos := s.pos.clk, cs := .holding s.pos.clk, ctlp := stack } := by
  have hl : line .ae1 (s.atLine .ae1 stack) =
      operate (encode (.pos .clk)) fun u => (u.take .cs).ret :=
    if_neg (ne_true_of_eq_false hp)
  exact hs.step_performed hl rfl (exec_pos_running hs.running rfl) hs.running

theorem ae1_step_enable (hs : s.Ready) (hp : s.present .en = true) (hd : stack.length ≤ 3) :
    step (s.atLine .ae1 stack) = step (s.atLine .ae2 stack) :=
  hs.step_silent hd (if_pos hp) ⟨hs.running, hs.env⟩

/-- The call at `AE.2`, pushed or in place, comes to `AE.3` at the next active-going edge. -/
theorem ae2_reaches_ae3 (hs : s.Ready) (hp : s.present .en = true) (hwf : s.cap.wf = true)
    (hc : s.Complete .en) (hnext : s.NextActive t) (hd : stack.length ≤ 3) :
    (s.atLine .ae2 stack).Reaches ({ s with
      pos := s.pos.set .en t, op := 0x1B, ansBit := s.levelOf .en }.atLine .ae3 stack) := by
  have hline : line .ae2 (s.atLine .ae2 stack) = .silent (s.atLine .ae2 stack).callNextActive := rfl
  by_cases hroom : stack.length < 3
  · rw [State.callNextActive_room (rest := stack) rfl hroom] at hline
    exact .of_step_eq (hs.step_silent hd hline ⟨hs.running, hs.env⟩)
      (na1_reaches (s := s) hs hp hwf hc hnext)
  · rw [State.callNextActive_full (rest := stack) rfl (Nat.le_of_not_lt hroom)] at hline
    exact .of_step_eq (hs.step_silent hd hline ⟨hs.running, hs.env⟩)
      (inPlace_search.reaches (s := s) hs hp hwf hc hnext)

theorem ae3_step (hs : s.Ready) (hp : s.present .en = true) :
    step (s.atLine .ae3 stack) = .next ({ s with
      op := 0x13, ansPos := s.pos.en, cs := .holding s.pos.en }.atLine .ae4 stack) :=
  hs.step_performed (i := .pos .en) (f := fun u => (u.take .cs).goto .ae4) rfl rfl
    (exec_pos_running hs.running hp) hs.running

theorem ae4_step (hs : s.Ready) (hw : s.cs.written = true) (hle : s.pos.clk ≤ s.cs.val)
    (havail : s.cs.val.toNat < s.hz.clk) :
    step (s.atLine .ae4 stack) = .next { s with
      op := 0x20, pos := s.pos.set .clk s.cs.val, ctlp := stack } :=
  hs.step_performed (i := .advTo .clk .cs) (f := State.ret) rfl rfl
    (exec_advTo_running hs.running rfl hw hle havail) hs.running

theorem ae1_reaches (hs : s.Ready) (hp : s.present .en = true) (hwf : s.cap.wf = true)
    (hen : s.Complete .en) (hclk : s.Complete .clk) (hnext : s.NextActive t)
    (hle : s.pos.clk ≤ t) (hd : stack.length ≤ 3) :
    (s.atLine .ae1 stack).Reaches { s with
      cs := .holding t
      pos := { s.pos with en := t, clk := t }
      op := 0x20
      ansBit := s.levelOf .en
      ansPos := t
      ctlp := stack } := by
  have havail : t.toNat < s.hz.clk := hclk.available (c := .en) hwf hnext.1
  exact .of_step_eq (ae1_step_enable hs hp hd)
    ((ae2_reaches_ae3 hs hp hwf hen hnext hd).tail (ae3_step ⟨hs.running, hs.env⟩ hp)
      |>.tail (ae4_step ⟨hs.running, hs.env⟩ rfl hle havail))

end

/-! ## The lines of `RESYNC` (42_resync.md R114, R115) -/

section
variable {s : State} {t : Sample} {stack : List Point}

theorem rs1_step (hs : s.Ready) (hd : stack.length < 3) :
    step (s.atLine .rs1 stack) = step (s.atLine .ae1 (.line .rs2 :: stack)) :=
  hs.step_silent (Nat.le_of_lt hd) (congrArg Line.silent (State.call_eq_atLine rfl hd))
    ⟨hs.running, hs.env⟩

/-- With no enable channel the call at `RS.1` is one step, which brings `CS` to the clock. -/
theorem rs1_step_noEnable (hs : s.Ready) (hd : stack.length < 3) (hp : s.present .en = false) :
    step (s.atLine .rs1 stack) = .next ({ s with
      op := 0x10, ansPos := s.pos.clk, cs := .holding s.pos.clk }.atLine .rs2 stack) :=
  (rs1_step hs hd).trans (ae1_step_noEnable hs hp)

theorem rs2_step (hs : s.Ready) :
    step (s.atLine .rs2 stack) = .next ({ s with op := 0x08, ansBit := s.levelOf .clk }.atLine
      (if s.levelOf .clk = s.cpol then .rs9 else .rs3) stack) :=
  hs.step_performed (i := .level .clk)
    (f := fun u => u.goto (if u.ansBit = u.cpol then .rs9 else .rs3)) rfl rfl
    (exec_level_running hs.running rfl) hs.running

theorem rs2_step_idle (hs : s.Ready) (hidle : s.levelOf .clk = s.cpol) :
    step (s.atLine .rs2 stack) =
      .next ({ s with op := 0x08, ansBit := s.levelOf .clk }.atLine .rs9 stack) := by
  rw [rs2_step hs, if_pos hidle]

theorem rs2_step_mismatch (hs : s.Ready) (hmis : s.levelOf .clk ≠ s.cpol) :
    step (s.atLine .rs2 stack) =
      .next ({ s with op := 0x08, ansBit := s.levelOf .clk }.atLine .rs3 stack) := by
  rw [rs2_step hs, if_neg hmis]

theorem rs9_step (hs : s.Ready) (hw : s.cs.written = true) :
    step (s.atLine .rs9 stack) = .next { s with
      op := 0xC4, sink := s.sink ++ [Record.start s.cs.val], ctlp := stack } :=
  hs.step_performed (i := .emitStart) (f := State.ret) rfl rfl
    (exec_emitStart_running hs.running hw) hs.running

theorem rs2_steps_idle (hs : s.Ready) (hidle : s.levelOf .clk = s.cpol)
    (hw : s.cs.written = true) :
    steps 2 (s.atLine .rs2 stack) = .next { s with
      op := 0xC4
      ansBit := s.levelOf .clk
      sink := s.sink ++ [Record.start s.cs.val]
      ctlp := stack } :=
  steps_two (rs2_step_idle hs hidle) (rs9_step ⟨hs.running, hs.env⟩ hw)

/-- The error marker at `CS`, and the search for the edge that ends the error span. -/
theorem rs3_step_enable (hs : s.Ready) (hw : s.cs.written = true) (hp : s.present .en = true)
    (hd : stack.length < 3) :
    step (s.atLine .rs3 stack) = .next ({ s with
      op := 0xD6
      sink := s.sink ++ [Record.marker s.cs.val .error]
      cause := .polarityMismatch
      es := .holding s.cs.val }.atLine .na1 (.line .rs4 :: stack)) := by
  refine (hs.step_performed (i := .emitMarkerError) rfl rfl
    (exec_emitMarkerError_running hs.running hw) hs.running).trans (congrArg _ ?_)
  refine (if_pos hp).trans ?_
  rw [withReg_written (r := .cs)]
  · exact State.call_eq_atLine rfl hd
  · exact hw

theorem rs3_step_noEnable (hs : s.Ready) (hw : s.cs.written = true) (hp : s.present .en = false) :
    step (s.atLine .rs3 stack) = .next ({ s with
      op := 0xD6
      sink := s.sink ++ [Record.marker s.cs.val .error]
      cause := .polarityMismatch }.atLine .rs7 stack) := by
  refine (hs.step_performed (i := .emitMarkerError) rfl rfl
    (exec_emitMarkerError_running hs.running hw) hs.running).trans (congrArg _ ?_)
  exact if_neg (ne_true_of_eq_false hp)

theorem rs4_step (hs : s.Ready) (hp : s.present .en = true) :
    step (s.atLine .rs4 stack) = .next ({ s with
      op := 0x13, ansPos := s.pos.en, cs := .holding s.pos.en }.atLine .rs5 stack) :=
  hs.step_performed (i := .pos .en) (f := fun u => (u.take .cs).goto .rs5) rfl rfl
    (exec_pos_running hs.running hp) hs.running

theorem rs5_step (hs : s.Ready) (he : s.es.written = true) (hw : s.cs.written = true) :
    step (s.atLine .rs5 stack) = .next ({ s with
      op := 0xC8, sink := s.sink ++ [Record.error s.es.val s.cs.val] }.atLine .rs6 stack) :=
  hs.step_performed (i := .emitError) (f := fun u => u.goto .rs6) rfl rfl
    (exec_emitError_running hs.running he hw) hs.running

theorem rs6_step (hs : s.Ready) (hw : s.cs.written = true) (hle : s.pos.clk ≤ s.cs.val)
    (havail : s.cs.val.toNat < s.hz.clk) :
    step (s.atLine .rs6 stack) = .next ({ s with
      op := 0x20, pos := s.pos.set .clk s.cs.val }.atLine .rs2 stack) :=
  hs.step_performed (i := .advTo .clk .cs) (f := fun u => u.goto .rs2) rfl rfl
    (exec_advTo_running hs.running rfl hw hle havail) hs.running

theorem rs7_step (hs : s.Ready) (hnext : s.NextAvailable .clk t) :
    step (s.atLine .rs7 stack) =
      .next ({ s with op := 0x18, pos := s.pos.set .clk t }.atLine .rs8 stack) :=
  hs.step_performed (i := .advEdge .clk) (f := fun u => u.goto .rs8) rfl rfl
    (exec_advEdge_running hs.running rfl hnext) hs.running

theorem rs8_step (hs : s.Ready) :
    step (s.atLine .rs8 stack) = .next ({ s with
      op := 0x10, ansPos := s.pos.clk, cs := .holding s.pos.clk }.atLine .rs9 stack) :=
  hs.step_performed (i := .pos .clk) (f := fun u => (u.take .cs).goto .rs9) rfl rfl
    (exec_pos_running hs.running rfl) hs.running

/-- The error span of a polarity mismatch, from its marker to the check at the next active-going
edge. -/
theorem rs3_reaches_rs2 (hs : s.Ready) (hw : s.cs.written = true) (hd : stack.length < 3)
    (hp : s.present .en = true) (hwf : s.cap.wf = true) (hen : s.Complete .en)
    (hclk : s.Complete .clk) (hnext : s.NextActive t) (hle : s.pos.clk ≤ t) :
    (s.atLine .rs3 stack).Reaches ({ s with
      es := .holding s.cs.val
      cs := .holding t
      cause := .polarityMismatch
      pos := { s.pos with en := t, clk := t }
      sink := s.sink ++ [Record.marker s.cs.val .error, Record.error s.cs.val t]
      op := 0x20
      ansBit := s.levelOf .en
      ansPos := t }.atLine .rs2 stack) := by
  have havail : t.toNat < s.hz.clk := hclk.available (c := .en) hwf hnext.1
  rw [List.append_cons]
  exact State.Reaches.single (rs3_step_enable hs hw hp hd)
    |>.trans (na1_reaches ⟨hs.running, hs.env⟩ hp hwf hen hnext)
    |>.tail (rs4_step ⟨hs.running, hs.env⟩ hp)
    |>.tail (rs5_step ⟨hs.running, hs.env⟩ rfl rfl)
    |>.tail (rs6_step ⟨hs.running, hs.env⟩ rfl hle havail)

end

/-! ## The marker polarity table (42_resync.md R111) -/

theorem markerDirection_eq (w : Word) :
    markerDirection w = (BitVec.ofBool (xor (w.getLsbD 9) (w.getLsbD 10))).setWidth 2 := by
  rw [markerDirection, cfgCpol, cfgEdge]
  cases w.getLsbD 10 <;> rfl

/-! ## The statements -/

/-- Settles O22: the four rows of the table, from the two bits of the configuration. -/
theorem setupMarkerDirection : Obligations.SetupMarkerDirection := by
  unfold Obligations.SetupMarkerDirection
  intro s hd
  have hrow {d : BitVec 2} (h : markerDirection s.cfgl = d) :
      line .su1 (s.atLine .su1 s.ctlp) = .silent { s with mdir := d } := by
    subst h; rfl
  refine ⟨_, congrArg Host.Outcome.next (s.enter_eq_atLine hd .su1), ?_, ?_, ?_, ?_⟩
  all_goals
    intro hcpol hedge
    apply hrow
    rw [markerDirection_eq, hcpol, hedge]
    rfl

/-- Settles O24, by the search of the three lines. -/
theorem nextActiveEdge : Obligations.NextActiveEdge := by
  unfold Obligations.NextActiveEdge
  intro s hr he hd hp hwf hc
  have hcall : exec .procNextActiveEdge s = .next (s.atLine .na1 s.ctlp) :=
    congrArg _ (s.enter_eq_atLine hd .na1)
  constructor
  · intro t hnext
    obtain ⟨k, hk⟩ := nextActiveEdge_search.reaches ⟨hr, he⟩ hp hwf hc hnext
    exact ⟨k + 1, _, hcall, hk⟩
  · intro hno
    obtain ⟨p, k, hk⟩ := nextActiveEdge_search.ends ⟨hr, he⟩ hp hwf hc hno
    exact ⟨k + 1, _, _, hcall, hk, rfl, rfl, rfl, rfl, rfl⟩

/-- Settles O25: with the enable channel by the run through both calls of `AE.2`. -/
theorem advActiveEnable : Obligations.AdvActiveEnable := by
  unfold Obligations.AdvActiveEnable
  intro s hr he
  have hcall (hd : s.ctlp.length < 4) :
      exec .procAdvActiveEnable s = .next (s.atLine .ae1 s.ctlp) :=
    congrArg _ (s.enter_eq_atLine hd .ae1)
  refine ⟨fun hp hd => ⟨_, hcall hd, ae1_step_noEnable ⟨hr, he⟩ hp⟩, ?_, fun rest hl => ⟨?_, ?_⟩⟩
  · intro hp hd hwf hen hclk t hnext hle
    obtain ⟨k, hk⟩ := ae1_reaches ⟨hr, he⟩ hp hwf hen hclk hnext hle (Nat.le_of_lt_succ hd)
    exact ⟨k + 1, _, hcall hd, hk⟩
  · exact fun hroom => congrArg _ (State.callNextActive_room hl hroom)
  · exact fun hfull => congrArg _ (State.callNextActive_full hl hfull.ge)

/-- Settles O31: the check of `RS.2` is followed by `START`, or by the error span. -/
theorem polarityCheck : Obligations.PolarityCheck := by
  unfold Obligations.PolarityCheck
  intro s rest hr he hl hw
  have hs : s.Ready := ⟨hr, he⟩
  have hself := State.atLine_self hl
  constructor
  · exact fun hidle => (congrArg (steps 2) hself).symm.trans (rs2_steps_idle hs hidle hw)
  · intro hmis hd hp hwf hen hclk t hnext hle
    obtain ⟨k, hk⟩ := State.Reaches.head (rs2_step_mismatch (stack := rest) hs hmis)
      (rs3_reaches_rs2 ⟨hr, he⟩ hw hd hp hwf hen hclk hnext hle)
    refine ⟨k + 1, _, (congrArg (steps (k + 1)) hself).symm.trans hk, ?_⟩
    rw [hl]
    rfl

/-- Settles O30: `CS` is the clock's position, and the check of `RS.2` is followed by `START`, or by
the marker, one clock transition and `START`. -/
theorem resyncWithoutEnable : Obligations.ResyncWithoutEnable := by
  unfold Obligations.ResyncWithoutEnable
  intro s hr he hd hp
  have hs : s.Ready := ⟨hr, he⟩
  have hcall : exec .procResync s = .next (s.atLine .rs1 s.ctlp) :=
    congrArg _ (s.enter_eq_atLine (Nat.lt_succ_of_lt hd) .rs1)
  have hstart := rs1_step_noEnable hs hd hp
  constructor
  · intro hidle
    obtain ⟨k, hk⟩ := State.Reaches.single hstart
      |>.tail (rs2_step_idle ⟨hr, he⟩ hidle)
      |>.tail (rs9_step ⟨hr, he⟩ rfl)
    exact ⟨k + 1, _, hcall, hk⟩
  · intro hmis t hnext
    rw [List.append_cons]
    obtain ⟨k, hk⟩ := State.Reaches.single hstart
      |>.tail (rs2_step_mismatch ⟨hr, he⟩ hmis)
      |>.tail (rs3_step_noEnable ⟨hr, he⟩ rfl hp)
      |>.tail (rs7_step ⟨hr, he⟩ hnext)
      |>.tail (rs8_step ⟨hr, he⟩)
      |>.tail (rs9_step ⟨hr, he⟩ rfl)
    exact ⟨k + 1, _, hcall, hk⟩

end Sys2Proof.Machine
end

section
/-! The cursor queries in a run that goes on, the steps of `RACE_CHECK`, and the statements of
43_race_detection.md. -/

namespace Sys2Proof.Machine

open Sys2Proof

/-! ## The transitions a query speaks of (40_cursor.md R100 to R102) -/

section
variable {s : State} {c : Channel} {t : Sample}

/-- Nothing lies after the cursor and at or before what is not after it. -/
theorem State.crosses_of_le (h : t ≤ s.pos.get c) : s.crosses c t = false := by
  rw [Bool.eq_false_iff, Ne, State.crosses_iff]
  rintro ⟨e, -, hpe, het⟩
  exact BitVec.not_le.mpr hpe (BitVec.le_trans het h)

/-- With no transition available, none is crossed up to a sample whose data is there. -/
theorem State.NoneAvailable.not_crosses (h : s.NoneAvailable c) (ht : t.toNat < s.hz.get c) :
    s.crosses c t = false := by
  rw [Bool.eq_false_iff, Ne, State.crosses_iff]
  rintro ⟨e, he, hpe, het⟩
  exact h e he hpe ((BitVec.le_def.mp het).trans_lt ht)

theorem State.FirstAfter.crosses {r : Sample} (h : s.FirstAfter c t) (hle : t ≤ r) :
    s.crosses c r = true := by
  obtain ⟨hmem, hlt, -⟩ := h
  exact State.crosses_iff.mpr ⟨t, hmem, hlt, hle⟩

theorem State.FirstAfter.nextAvailable (h : s.FirstAfter c t) (ht : t.toNat < s.hz.get c) :
    s.NextAvailable c t := by
  obtain ⟨hmem, hlt, hleast⟩ := h
  exact ⟨hmem, hlt, ht, fun u hu hpu _ => hleast u hu hpu⟩

end

/-! ## The operations of the check in a run that goes on -/

section
variable {s : State} {c : Channel} {r : SampleSel} {t : Sample}

theorem exec_nextEdge_running (hr : s.runState = .running) (hp : s.present c = true)
    (h : s.NextAvailable c t) :
    exec (.nextEdge c) s = .next { s with op := 0x28#8 + channelCode c, ansPos := t } := by
  rw [exec_nextEdge_eq, nextEdgeOp_of_next hp h, State.performing_of_running hr]

theorem exec_hasMore_running (hr : s.runState = .running) (hp : s.present c = true) :
    exec (.hasMore c) s =
      .next { s with op := 0x38#8 + channelCode c, ansBit := !(s.ahead c).isEmpty } := by
  rw [exec_hasMore_eq, hasMoreOp, onChannel_present _ hp, State.performing_of_running hr]

theorem exec_hasMore_of_next (hr : s.runState = .running) (hp : s.present c = true)
    (h : s.NextAvailable c t) :
    exec (.hasMore c) s = .next { s with op := 0x38#8 + channelCode c, ansBit := true } := by
  obtain ⟨hmem, hlt, havail, -⟩ := h
  rw [exec_hasMore_running hr hp, State.ahead_nonempty_iff.mpr ⟨t, hmem, hlt, havail⟩]

theorem exec_hasMore_of_none (hr : s.runState = .running) (hp : s.present c = true)
    (h : s.NoneAvailable c) :
    exec (.hasMore c) s = .next { s with op := 0x38#8 + channelCode c, ansBit := false } := by
  rw [exec_hasMore_running hr hp, ahead_isEmpty_iff.mpr h, Bool.not_true]

/-- An available operand, behind the cursor or not: the answer is whether a transition lies
between. -/
theorem exec_wouldCross_running {b : Bool} (hr : s.runState = .running) (hp : s.present c = true)
    (hw : (s.reg (selReg r)).written = true) (h : (s.reg (selReg r)).val.toNat < s.hz.get c)
    (hb : s.crosses c (s.reg (selReg r)).val = b) :
    exec (.wouldCross c r) s = .next { s with op := 0x30#8 + channelCode c, ansBit := b } := by
  rw [exec_wouldCross_eq, ← hb]
  by_cases hge : (s.reg (selReg r)).val ≤ s.pos.get c
  · rw [wouldCrossOp_of_le hp hw hge, State.performing_of_running hr, State.crosses_of_le hge]
  · rw [wouldCrossOp_of_available hp hw (BitVec.not_le.mp hge) h, State.performing_of_running hr]

theorem State.resumed_of_inRun (h : s.inRun = true) : s.runState.resumed = .running := by
  rw [State.inRun, Bool.or_eq_true, beq_iff_eq, beq_iff_eq] at h
  obtain hrunning | hwaiting := h
  · rw [hrunning, RunState.resumed_running]
  · rw [hwaiting, RunState.resumed_waiting]

/-- An emission proceeds in any run, also where the decoder waited. -/
theorem exec_emitDisable_inRun {r : DisableSel} (h : s.inRun = true)
    (hw : (s.reg (disableReg r)).written = true) :
    exec (.emitDisable r) s = .next { s with
      op := 0xCC
      runState := .running
      sink := s.sink ++ [Record.disable (s.reg (disableReg r)).val] } := by
  change emitDisableOp _ _ s = _
  rw [emitDisableOp, withReg_written _ hw, State.emit, State.performing, State.resumed_of_inRun h]
  rfl

end

/-! ## The lines of `RACE_CHECK` (43_race_detection.md R120) -/

section
variable {s : State} {r t : Sample} {stack : List Point}

theorem exec_procRaceCheck_eq (e : Bool) (hd : s.ctlp.length < 4) :
    exec (.procRaceCheck e) s = .next ({ s with raceEmit := e }.atLine .rc1 s.ctlp) :=
  congrArg Host.Outcome.next (State.enter_eq_atLine (s := { s with raceEmit := e }) hd .rc1)

theorem rc1_step_enable (hs : s.Ready) (hp : s.present .en = true) (hd : stack.length ≤ 3) :
    step (s.atLine .rc1 stack) = step (s.atLine .rc2 stack) :=
  hs.step_silent hd (if_pos hp) ⟨hs.running, hs.env⟩

theorem rc2_step_none (hs : s.Ready) (hnone : s.NoneAvailable .clk) :
    step (s.atLine .rc2 stack) =
      .next ({ s with op := 0x38, ansBit := false }.atLine .rc3 stack) :=
  hs.step_performed (i := .hasMore .clk) (f := fun u => u.goto (if u.ansBit then .rc7 else .rc3))
    rfl rfl (exec_hasMore_of_none hs.running rfl hnone) hs.running

theorem rc2_step_more (hs : s.Ready) (hnext : s.NextAvailable .clk r) :
    step (s.atLine .rc2 stack) =
      .next ({ s with op := 0x38, ansBit := true }.atLine .rc7 stack) :=
  hs.step_performed (i := .hasMore .clk) (f := fun u => u.goto (if u.ansBit then .rc7 else .rc3))
    rfl rfl (exec_hasMore_of_next hs.running rfl hnext) hs.running

theorem rc3_step (hs : s.Ready) (hp : s.present .en = true) :
    step (s.atLine .rc3 stack) = .next ({ s with op := 0x0B, ansBit := s.levelOf .en }.atLine
      (if s.levelOf .en = s.enpol then .rc4 else .rc7) stack) :=
  hs.step_performed (i := .level .en)
    (f := fun u => u.goto (if u.ansBit = u.enpol then .rc4 else .rc7)) rfl rfl
    (exec_level_running hs.running hp) hs.running

theorem rc3_step_active (hs : s.Ready) (hp : s.present .en = true)
    (hact : s.levelOf .en = s.enpol) :
    step (s.atLine .rc3 stack) =
      .next ({ s with op := 0x0B, ansBit := s.levelOf .en }.atLine .rc4 stack) := by
  rw [rc3_step hs hp, if_pos hact]

theorem rc4_step_more (hs : s.Ready) (hp : s.present .en = true) (hnext : s.NextAvailable .en t) :
    step (s.atLine .rc4 stack) =
      .next ({ s with op := 0x3B, ansBit := true }.atLine .rc5 stack) :=
  hs.step_performed (i := .hasMore .en) (f := fun u => u.goto (if u.ansBit then .rc5 else .rc7))
    rfl rfl (exec_hasMore_of_next hs.running hp hnext) hs.running

theorem rc5_step (hs : s.Ready) (hp : s.present .en = true) (hnext : s.NextAvailable .en t) :
    step (s.atLine .rc5 stack) = .next ({ s with
      op := 0x2B, ansPos := t, rs := .holding t }.atLine .rc6 stack) :=
  hs.step_performed (i := .nextEdge .en) (f := fun u => (u.take .rs).goto .rc6) rfl rfl
    (exec_nextEdge_running hs.running hp hnext) hs.running

/-- The clock's data up to `RS` is there and holds no transition: the toggle is validated. -/
theorem rc6_step_validated (hs : s.Ready) (hw : s.rs.written = true)
    (havail : s.rs.val.toNat < s.hz.clk) (hno : s.crosses .clk s.rs.val = false) :
    step (s.atLine .rc6 stack) = .next ({ s with
      op := 0x30, ansBit := false, rt := true }.atLine .rc10 stack) :=
  hs.step_performed (i := .wouldCross .clk .rs)
    (f := fun u => if u.ansBit then u.goto .rc7 else { u with rt := true }.goto .rc10) rfl rfl
    (exec_wouldCross_running hs.running rfl hw havail hno) hs.running

theorem rc7_step (hs : s.Ready) (hnext : s.NextAvailable .clk r) :
    step (s.atLine .rc7 stack) = .next ({ s with
      op := 0x28, ansPos := r, rn := .holding r }.atLine .rc8 stack) :=
  hs.step_performed (i := .nextEdge .clk) (f := fun u => (u.take .rn).goto .rc8) rfl rfl
    (exec_nextEdge_running hs.running rfl hnext) hs.running

theorem rc8_step_clear (hs : s.Ready) (hp : s.present .en = true) (hw : s.rn.written = true)
    (havail : s.rn.val.toNat < s.hz.en) (hno : s.crosses .en s.rn.val = false) :
    step (s.atLine .rc8 stack) = .next { s with
      op := 0x33, ansBit := false, rt := false, ctlp := stack } :=
  hs.step_performed (i := .wouldCross .en .rn)
    (f := fun u => if u.ansBit then u.goto .rc9 else { u with rt := false }.ret) rfl rfl
    (exec_wouldCross_running hs.running hp hw havail hno) hs.running

theorem rc8_step_toggle (hs : s.Ready) (hp : s.present .en = true) (hw : s.rn.written = true)
    (havail : s.rn.val.toNat < s.hz.en) (hyes : s.crosses .en s.rn.val = true) :
    step (s.atLine .rc8 stack) =
      .next ({ s with op := 0x33, ansBit := true }.atLine .rc9 stack) :=
  hs.step_performed (i := .wouldCross .en .rn)
    (f := fun u => if u.ansBit then u.goto .rc9 else { u with rt := false }.ret) rfl rfl
    (exec_wouldCross_running hs.running hp hw havail hyes) hs.running

theorem rc9_step (hs : s.Ready) (hp : s.present .en = true) (hnext : s.NextAvailable .en t) :
    step (s.atLine .rc9 stack) = .next ({ s with
      op := 0x2B, ansPos := t, rs := .holding t, rt := true }.atLine .rc10 stack) :=
  hs.step_performed (i := .nextEdge .en) (f := fun u => { u.take .rs with rt := true }.goto .rc10)
    rfl rfl (exec_nextEdge_running hs.running hp hnext) hs.running

/-! ## The two cases (43_race_detection.md R121, R122) -/

/-- Case 1, validated: from `RC.1` through `RC.6` to the report. -/
theorem rc1_reaches_caseOne (hs : s.Ready) (hd : stack.length ≤ 3) (hp : s.present .en = true)
    (hnone : s.NoneAvailable .clk) (hact : s.levelOf .en = s.enpol)
    (hnext : s.NextAvailable .en t) (havail : t.toNat < s.hz.clk) :
    (s.atLine .rc1 stack).Reaches ({ s with
      rt := true, rs := .holding t
      op := 0x30, ansBit := false, ansPos := t }.atLine .rc10 stack) :=
  .of_step_eq (rc1_step_enable hs hp hd)
    (State.Reaches.single (rc2_step_none hs hnone)
      |>.tail (rc3_step_active ⟨hs.running, hs.env⟩ hp hact)
      |>.tail (rc4_step_more ⟨hs.running, hs.env⟩ hp hnext)
      |>.tail (rc5_step ⟨hs.running, hs.env⟩ hp hnext)
      |>.tail (rc6_step_validated ⟨hs.running, hs.env⟩ rfl havail
        (hnone.not_crosses (c := .clk) havail)))

/-- Case 2 up to the comparison of `RC.8`. -/
theorem rc1_reaches_rc8 (hs : s.Ready) (hd : stack.length ≤ 3) (hp : s.present .en = true)
    (hclk : s.NextAvailable .clk r) :
    (s.atLine .rc1 stack).Reaches ({ s with
      rn := .holding r, op := 0x28, ansBit := true, ansPos := r }.atLine .rc8 stack) :=
  .of_step_eq (rc1_step_enable hs hp hd)
    (State.Reaches.single (rc2_step_more hs hclk)
      |>.tail (rc7_step ⟨hs.running, hs.env⟩ hclk))

/-- Case 2 with no enable transition up to the clock's next edge: the check returns. -/
theorem rc1_reaches_clear (hs : s.Ready) (hd : stack.length ≤ 3) (hp : s.present .en = true)
    (hclk : s.NextAvailable .clk r) (hen : r.toNat < s.hz.en) (hno : s.crosses .en r = false) :
    (s.atLine .rc1 stack).Reaches { s with
      rt := false, rn := .holding r, op := 0x33, ansBit := false, ansPos := r, ctlp := stack } :=
  (rc1_reaches_rc8 hs hd hp hclk).tail (rc8_step_clear ⟨hs.running, hs.env⟩ hp rfl hen hno)

/-- Case 2 with an enable transition up to the clock's next edge: the first one is reported. -/
theorem rc1_reaches_toggle (hs : s.Ready) (hd : stack.length ≤ 3) (hp : s.present .en = true)
    (hclk : s.NextAvailable .clk r) (hen : r.toNat < s.hz.en) (hfirst : s.FirstAfter .en t)
    (hle : t ≤ r) :
    (s.atLine .rc1 stack).Reaches ({ s with
      rt := true, rs := .holding t, rn := .holding r
      op := 0x2B, ansBit := true, ansPos := t }.atLine .rc10 stack) := by
  have hnext : s.NextAvailable .en t :=
    hfirst.nextAvailable ((BitVec.le_def.mp hle).trans_lt hen)
  exact (rc1_reaches_rc8 hs hd hp hclk)
    |>.tail (rc8_step_toggle ⟨hs.running, hs.env⟩ hp rfl hen (hfirst.crosses hle))
    |>.tail (rc9_step ⟨hs.running, hs.env⟩ hp hnext)

end

/-! ## The statements -/

/-- Settles O27, by the run through `RC.2` to `RC.6`: no clock transition lies up to the enable's
edge, because none is available and the clock's data up to it is. -/
theorem raceCheckCaseOne : Obligations.RaceCheckCaseOne := by
  unfold Obligations.RaceCheckCaseOne
  intro s e t hr he hd hp hnone hact hnext havail
  obtain ⟨k, hk⟩ := rc1_reaches_caseOne (s := { s with raceEmit := e }) ⟨hr, he⟩
    (Nat.le_of_lt_succ hd) hp hnone hact hnext havail
  exact ⟨k + 1, _, exec_procRaceCheck_eq e hd, hk⟩

/-- Settles O28, by the answer of `RC.8`: with an enable transition up to the clock's next edge, the
first of them is available, as the enable's data up to that edge is. -/
theorem raceCheckCaseTwo : Obligations.RaceCheckCaseTwo := by
  unfold Obligations.RaceCheckCaseTwo
  intro s e r hr he hd hp hclk hen
  have hs : { s with raceEmit := e }.Ready := ⟨hr, he⟩
  have hroom : s.ctlp.length ≤ 3 := Nat.le_of_lt_succ hd
  constructor
  · intro hno
    have hclear : s.crosses .en r = false := by
      rw [Bool.eq_false_iff, Ne, State.crosses_iff]
      exact fun ⟨t, ht, hbetween⟩ => hno t ht hbetween
    obtain ⟨k, hk⟩ := rc1_reaches_clear hs hroom hp hclk hen hclear
    exact ⟨k + 1, _, exec_procRaceCheck_eq e hd, hk⟩
  · intro t hfirst hle
    obtain ⟨k, hk⟩ := rc1_reaches_toggle hs hroom hp hclk hen hfirst hle
    exact ⟨k + 1, _, exec_procRaceCheck_eq e hd, hk⟩

/-- Settles O26: `RC.1` performs no operation and returns. -/
theorem raceCheckNoEnable : Obligations.RaceCheckNoEnable := by
  unfold Obligations.RaceCheckNoEnable
  intro s e hp hd
  exact ⟨_, exec_procRaceCheck_eq e hd, if_neg (ne_true_of_eq_false hp)⟩

/-- Settles O29, by the two branches of `RC.10`. -/
theorem raceCheckReport : Obligations.RaceCheckReport := by
  unfold Obligations.RaceCheckReport
  intro s rest hrun hl
  constructor
  · intro hemit hw
    have hline : line .rc10 s = operate (encode (.emitDisable .rs)) State.ret := if_pos hemit
    rw [decoderStep_of_settled hrun (settled_of_operation hl hline), pointStep_operation hl hline,
      execCode_of_decode (decode_encode rfl), exec_emitDisable_inRun (r := .rs) hrun hw, proceed,
      if_pos rfl, State.ret, hl, List.tail_cons]
    rfl
  · intro hquiet
    have hline : line .rc10 s = .silent s.ret := if_neg (ne_true_of_eq_false hquiet)
    rw [hline, State.ret, hl, List.tail_cons]

end Sys2Proof.Machine
end

section
/-! The clock's place in a word: what each label asks of the clock's level, that a line which leaves
the clock asks for no other level than before, and the statement of 44_word_extraction.md R128. -/

namespace Sys2Proof.Machine

open Sys2Proof

/-! ## What a label asks of the clock (42_resync.md R117, 44_word_extraction.md R128) -/

/-- Where the clock stands when control is at a label. -/
inductive ClockPlace where
  /-- at either level -/
  | any
  /-- at the idle level -/
  | idle
  /-- away from it -/
  | away
  /-- at the idle level, unless the last bit of the word was cut off (`NR`) -/
  | wordEnd
  /-- where it stood at the caller -/
  | caller
  deriving DecidableEq

/-- The place of each label, as `State.clockIdle` reads it from the whole stack (`clockIdle_eq`). -/
def clockPlace : Label → ClockPlace
  | .run3 | .run4 | .rs8 | .rs9 | .gwRet => .idle
  | .gw1 | .gw2 | .gw3 | .gw4 | .gw5 | .gw6 | .gw7 | .gw17 | .gw4next => .idle
  | .rs3 | .rs7 => .away
  | .gw8 | .gw9 | .gw10 | .gw11 | .gw12 | .gw13 | .gw14 | .gw15 | .gw16 => .away
  | .gw18 | .gw19 | .gw20 => .wordEnd
  | .sd1 | .sd2 | .sd3 | .sd4 | .sd5 | .sd6 => .caller
  | .rc1 | .rc2 | .rc3 | .rc4 | .rc5 | .rc6 | .rc7 | .rc8 | .rc9 | .rc10 => .caller
  | _ => .any

/-- The place at label `l` of a procedure that returns to the label `caller`. -/
def placeUnder (l : Label) (caller : Option Label) : ClockPlace :=
  if clockPlace l = .caller then (caller.map clockPlace).getD .any else clockPlace l

/-- The answer a place wants to "does the clock stand at its idle level". -/
def ClockPlace.asks (nr : Bool) : ClockPlace → Option Bool
  | .idle => some true
  | .away => some false
  | .wordEnd => some !nr
  | .any | .caller => none

/-- The labels of `GET_WORD` at which `NR` is 0 (`State.Proper.fresh`). -/
def clearsNr (l : Label) : Bool := l == .gw4 || inLoop l

/-- `NR` is 0 while control is in the bit loop. -/
def State.Fresh (s : State) : Prop := ∀ l, .line l ∈ s.ctlp → clearsNr l = true → s.nr = false

/-- Control is at `l`, and `NR` is 0 in the bit loop. -/
structure State.FreshAt (s : State) (l : Label) (stack : List Point) : Prop where
  fresh : s.Fresh
  ok : stackOk s.ctlp = true
  ctlp : s.ctlp = .line l :: stack

/-- In `t` control asks for no other clock level than in `s`. -/
structure State.KeepsPhase (s t : State) : Prop where
  fresh : t.Fresh
  asks : t.clockIdle = none ∨ t.clockIdle = s.clockIdle

section
variable {s t u : State} {l m f e : Label} {stack : List Point}

theorem State.Proper.isFresh (h : s.Proper) : s.Fresh := fun l hl hc =>
  h.fresh l hl (by simpa [clearsNr] using hc)

theorem stackOk_callerOf (hok : stackOk (.line l :: stack) = true) (hp : placeOf l ≠ 1) :
    ∃ m rest, stack = .line m :: rest ∧ mayReturnTo (placeOf l) m = true := by
  rcases stack with _ | ⟨m | c, rest⟩
  · exact absurd (beq_iff_eq.mp hok) hp
  · exact ⟨m, rest, rfl, (stackOk_caller hok).1⟩
  · simp [stackOk] at hok

theorem sampleCaller (hm : mayReturnTo 8 m = true) : m = .gw10 ∨ m = .gw4next := by
  simpa using mayReturnTo_cases hm

theorem clockIdle_eq (hl : s.ctlp = .line l :: stack) (hok : stackOk s.ctlp = true) :
    s.clockIdle = (placeUnder l (topLabel stack)).asks s.nr := by
  have htop := State.top_of_ctlp hl
  rw [hl] at hok
  rw [State.clockIdle, htop]
  cases l
  case rc1 | rc2 | rc3 | rc4 | rc5 | rc6 | rc7 | rc8 | rc9 | rc10 =>
    obtain ⟨m, rest, rfl, hm⟩ := stackOk_callerOf hok (by decide)
    rw [State.under_eq, hl]
    obtain rfl | rfl | rfl := raceCaller hm <;> rfl
  case sd1 | sd2 | sd3 | sd4 | sd5 | sd6 =>
    obtain ⟨m, rest, rfl, hm⟩ := stackOk_callerOf hok (by decide)
    rw [State.under_eq, hl]
    obtain rfl | rfl := sampleCaller hm <;> rfl
  all_goals rfl

theorem State.ClockPhase.of_asks (h : s.ClockPhase) (hclk : t.levelOf .clk = s.levelOf .clk)
    (hcfgl : t.cfgl = s.cfgl) (hasks : t.clockIdle = none ∨ t.clockIdle = s.clockIdle) :
    t.ClockPhase := by
  intro b hb
  rw [hclk, State.cpol, hcfgl]
  rcases hasks with hnone | hsame
  · rw [hnone] at hb; cases hb
  · exact h b (hsame ▸ hb)

/-! ### Where control goes -/

theorem asks_of_place {p q : ClockPlace} (nr : Bool) (h : p = .any ∨ p = q) :
    p.asks nr = none ∨ p.asks nr = q.asks nr :=
  h.imp (fun h => by rw [h]; rfl) (fun h => by rw [h])

theorem placeUnder_of_ne (h : clockPlace l ≠ .caller) (c : Option Label) :
    placeUnder l c = clockPlace l := if_neg h

theorem State.FreshAt.asks (h : s.FreshAt l stack) :
    s.clockIdle = (placeUnder l (topLabel stack)).asks s.nr :=
  clockIdle_eq h.ctlp h.ok

theorem State.FreshAt.asks_of_ne (h : s.FreshAt l stack) (hl : clockPlace l ≠ .caller) :
    s.clockIdle = (clockPlace l).asks s.nr := by
  rw [h.asks, placeUnder_of_ne hl]

theorem State.FreshAt.nr (h : s.FreshAt l stack) (hl : clearsNr l = true) : s.nr = false :=
  h.fresh l (h.ctlp ▸ List.mem_cons_self) hl

theorem State.KeepsPhase.fault (code : BitVec 8) : s.KeepsPhase (u.internalFault code) :=
  ⟨nofun, .inl rfl⟩

/-- What a `goto m` asks. -/
def gotoKeeps (l m : Label) : Bool :=
  (clockPlace m == .any || clockPlace m == clockPlace l) && (!clearsNr m || clearsNr l)
    && placeOf m == placeOf l

theorem State.FreshAt.replace (h : s.FreshAt l stack) (hctlp : u.ctlp = .line m :: stack)
    (hnr : u.nr = s.nr) (hm : clearsNr m = false ∨ clearsNr l = true) (hp : placeOf m = placeOf l) :
    u.FreshAt m stack where
  fresh k hk hc := by
    rw [hctlp] at hk
    rw [hnr]
    rcases List.mem_cons.mp hk with hk | hk
    · cases hk; exact h.nr (hm.resolve_left (ne_false_of_eq_true hc))
    · exact h.fresh k (h.ctlp ▸ List.mem_cons_of_mem _ hk) hc
  ok := by rw [hctlp, stackOk_replace stack hp, ← h.ctlp, h.ok]
  ctlp := hctlp

theorem State.FreshAt.goto (h : s.FreshAt l stack) (hu : u.ctlp = s.ctlp) (hnr : u.nr = s.nr)
    (hm : gotoKeeps l m = true) : s.KeepsPhase (u.goto m) := by
  simp only [gotoKeeps, Bool.and_eq_true, Bool.or_eq_true, Bool.not_eq_true', beq_iff_eq] at hm
  obtain ⟨⟨hplace, hclear⟩, hp⟩ := hm
  have ht : (u.goto m).FreshAt m stack :=
    h.replace (by rw [State.goto_ctlp, hu, h.ctlp, List.tail_cons]) hnr hclear hp
  refine ⟨ht.fresh, ?_⟩
  rw [ht.asks, h.asks, State.goto_nr, hnr]
  exact asks_of_place _ (hplace.imp (fun hm => by simp [placeUnder, hm])
    (fun hm => by simp only [placeUnder, hm]))

/-- What a `call` of the procedure entered at `e` asks, where `f` follows the call. -/
def callKeeps (l f e : Label) : Bool :=
  (placeUnder e (some f) == .any ||
      (placeUnder e (some f) == clockPlace l && clockPlace l != .caller))
    && !clearsNr e && (!clearsNr f || clearsNr l) && placeOf f == placeOf l
    && mayReturnTo (placeOf e) f

theorem State.FreshAt.call (h : s.FreshAt l stack) (hu : u.ctlp = s.ctlp) (hnr : u.nr = s.nr)
    (hm : callKeeps l f e = true) : s.KeepsPhase (u.call f e) := by
  simp only [callKeeps, Bool.and_eq_true, Bool.or_eq_true, Bool.not_eq_true', beq_iff_eq,
    bne_iff_ne] at hm
  obtain ⟨⟨⟨⟨hplace, he⟩, hf⟩, hp⟩, hr⟩ := hm
  have hgoto : (u.goto f).FreshAt f stack :=
    h.replace (by rw [State.goto_ctlp, hu, h.ctlp, List.tail_cons]) hnr hf hp
  by_cases hroom : (u.goto f).ctlp.length < 4
  · rw [State.call, State.enter_of_lt _ _ hroom, hgoto.ctlp]
    refine ⟨fun k hk hc => ?_, ?_⟩
    · rcases List.mem_cons.mp hk with hk | hk
      · cases hk; rw [he] at hc; cases hc
      · exact hgoto.fresh k (hgoto.ctlp ▸ hk) hc
    · have hok : stackOk (.line f :: stack) = true := hgoto.ctlp ▸ hgoto.ok
      rw [clockIdle_eq rfl (by simp [stackOk, hr, hok]), h.asks, ← hnr]
      refine asks_of_place _ (hplace.imp_right fun ⟨hsame, hne⟩ => ?_)
      exact hsame.trans (placeUnder_of_ne hne _).symm
  · rw [State.call, State.enter_of_full _ _ (Nat.le_of_not_lt hroom)]
    exact .fault _

theorem mem_returnLabels {p : BitVec 5} (h : mayReturnTo p m = true) : m ∈ returnLabels := by
  revert h; cases m <;> simp [mayReturnTo, returnLabels]

theorem clockPlace_returnLabel (h : m ∈ returnLabels) : clockPlace m ≠ .caller := by
  have htable : ∀ m ∈ returnLabels, clockPlace m ≠ .caller := by decide
  exact htable m h

/-- Where a procedure returns to, control asks for no other level than where it returns from. -/
theorem asks_of_returns {nr : Bool} (hret : returns l = true) (hnr : l = .gw20 → nr = false)
    (hm : mayReturnTo (placeOf l) m = true) :
    (clockPlace m).asks nr = none ∨ (clockPlace m).asks nr = (placeUnder l (some m)).asks nr := by
  have htable : returns l = true → ∀ m ∈ returnLabels, mayReturnTo (placeOf l) m = true →
      ∀ nr : Bool, (l = .gw20 → nr = false) → (clockPlace m).asks nr = none ∨
        (clockPlace m).asks nr = (placeUnder l (some m)).asks nr := by
    cases l <;> decide
  exact htable hret m (mem_returnLabels hm) hm nr hnr

theorem State.FreshAt.ret (h : s.FreshAt l stack) (hu : u.ctlp = s.ctlp) (hnr : u.nr = s.nr)
    (hp : placeOf l ≠ 1) (hret : returns l = true) (hend : l = .gw20 → s.nr = false) :
    s.KeepsPhase u.ret := by
  obtain ⟨m, rest, rfl, hm⟩ := stackOk_callerOf (h.ctlp ▸ h.ok) hp
  have hrest : u.ret.ctlp = .line m :: rest := by rw [State.ret_ctlp, hu, h.ctlp, List.tail_cons]
  refine ⟨fun k hk hc => ?_, ?_⟩
  · exact hnr.trans (h.fresh k (h.ctlp ▸ List.mem_cons_of_mem _ (hrest ▸ hk)) hc)
  · rw [clockIdle_eq hrest (hrest ▸ (stackOk_caller (h.ctlp ▸ h.ok)).2), h.asks, State.ret_nr, hnr,
      placeUnder_of_ne (clockPlace_returnLabel (mem_returnLabels hm))]
    exact asks_of_returns hret hend hm

/-- Where the bit loop is left, only labels outside it stay on the stack. -/
theorem State.FreshAt.toMarkers (h : s.FreshAt l stack) (hu : u.ctlp = s.ctlp)
    (hp : placeOf l = 7) : u.toMarkers.Fresh := by
  intro k hk hc
  rw [State.toMarkers_ctlp, hu, h.ctlp, List.tail_cons] at hk
  rcases List.mem_cons.mp hk with hk | hk
  · cases hk; cases hc
  · obtain rfl | rfl | rfl := stackOk_below (h.ctlp ▸ h.ok) (.inr (.inr hp)) hk <;> cases hc

theorem State.FreshAt.loopAt (h : s.FreshAt l stack) (hl : l = .gw4 ∨ l = .gw4next) (i : Nat) :
    s.KeepsPhase (s.loopAt i) := by
  have htable : gotoKeeps l .gw5 = true ∧ placeOf l = 7 ∧ clearsNr l = true ∧
      clockPlace l = .idle := by
    rcases hl with rfl | rfl <;> decide
  obtain ⟨hgoto, hp, hclear, hplace⟩ := htable
  unfold State.loopAt; split
  · exact h.goto rfl rfl hgoto
  · refine ⟨h.toMarkers rfl hp, .inr ?_⟩
    rw [h.asks_of_ne (by simp [hplace]), hplace]
    exact congrArg (fun b => some !b) (h.nr hclear)

/-- A line without an operation asks for no other level of the clock. -/
theorem State.FreshAt.silent (h : s.FreshAt l stack) (ht : line l s = .silent t) :
    s.KeepsPhase t := by
  cases l <;> simp only [line, operate] at ht
  case run1 | run2 | run3 | rs1 => cases ht; exact h.call rfl rfl rfl
  case run4 => cases ht; exact h.goto rfl rfl rfl
  case gw10 => cases ht; exact h.goto rfl rfl (by split <;> rfl)
  case gwRet | su1 => cases ht; exact h.ret rfl rfl (by decide) rfl nofun
  case ae1 | gw8 | gw18 | sd2 | sd3 | sd4 | sd5 =>
    split at ht <;> cases ht
    exact h.goto rfl rfl rfl
  case ae2 =>
    cases ht; unfold State.callNextActive; split
    · exact h.call rfl rfl rfl
    · exact h.goto rfl rfl rfl
  case rc1 =>
    split at ht <;> cases ht
    · exact h.goto rfl rfl rfl
    · exact h.ret rfl rfl (by decide) rfl nofun
  case rc10 => split at ht <;> cases ht; exact h.ret rfl rfl (by decide) rfl nofun
  case gw20 =>
    split at ht <;> cases ht
    case isFalse hnr => exact h.ret rfl rfl (by decide) rfl fun _ => Bool.eq_false_iff.mpr hnr
  case gw4 => cases ht; exact h.loopAt (.inl rfl) _
  case gw4next => cases ht; exact h.loopAt (.inr rfl) _
  case gw5 => cases ht; exact h.call (f := .gw6) (u := { s with raceEmit := true }) rfl rfl rfl
  case gw11 => cases ht; exact h.call (f := .gw12) (u := { s with raceEmit := false }) rfl rfl rfl
  case gw14 => cases ht; exact h.call (f := .gw15) (u := { s with raceEmit := true }) rfl rfl rfl
  case gw6 | gw15 =>
    cases ht; split
    · exact h.call (f := .gwRet) (e := .rs1) (u := s.record _) rfl rfl rfl
    · exact h.goto rfl rfl rfl
  case gw9 | gw17 =>
    cases ht; split
    · exact h.call rfl rfl rfl
    · exact h.goto rfl rfl rfl
  case gw12 =>
    cases ht; split
    · exact withReg_ind (P := fun u => s.KeepsPhase u) (.fault _) fun v =>
        ⟨h.toMarkers rfl rfl, .inr h.asks.symm⟩
    · exact h.goto rfl rfl rfl
  case sd6 =>
    cases ht; unfold State.noteSample; split
    · exact withReg_ind (P := fun u => s.KeepsPhase u) (.fault _) fun v =>
        h.ret rfl rfl (by decide) rfl nofun
    · exact .fault _
  all_goals cases ht

/-! ### A line's operation -/

theorem State.ClockPhase.of_none (h : t.clockIdle = none) : t.ClockPhase := by
  intro b hb
  rw [h] at hb; cases hb

theorem clockIdle_congr (hctlp : t.ctlp = s.ctlp) (hnr : t.nr = s.nr) :
    t.clockIdle = s.clockIdle := by
  simp only [State.clockIdle, State.top, State.under, hctlp, hnr]

theorem State.FreshAt.stay (h : s.FreshAt l stack) (hu : u.ctlp = s.ctlp) (hnr : u.nr = s.nr) :
    s.KeepsPhase u :=
  ⟨fun k hk hc => hnr.trans (h.fresh k (hu ▸ hk) hc), .inr (clockIdle_congr hu hnr)⟩

/-- The lines that cross the next clock edge. -/
def crossesClock (l : Label) : Bool := [Label.rs7, .gw7, .gw13, .gw16].contains l

/-- The lines that bring the clock to the sample in `CS`. -/
def reachesSample (l : Label) : Bool := [Label.rs6, .ae4].contains l

theorem operationAt_keepsClock {d : BitVec 2} {i : Instr} (h : operationAt d l = some i)
    (hcross : crossesClock l = false) (hreach : reachesSample l = false) :
    Field.pos .clk ∉ writes i := by
  cases l
  case gw18 =>
    simp only [operationAt, Option.some.injEq] at h
    split at h <;> cases h <;> decide
  case rs7 | gw7 | gw13 | gw16 => cases hcross
  case rs6 | ae4 => cases hreach
  all_goals cases h <;> decide

theorem nr_notMem_writes (i : Instr) : Field.nr ∉ writes i := by
  cases i <;> simp [writes]

/-- A second operation and the `goto` after it. -/
theorem State.FreshAt.second (h : s.FreshAt l stack) {i : Instr} (hi : isSecond i = true)
    (hr : u.runState = .running) (hu : u.ctlp = s.ctlp) (hnr : u.nr = s.nr)
    (hm : gotoKeeps l m = true) (ht : proceed (exec i u) (fun v => .next (v.goto m)) = .next t) :
    s.KeepsPhase t := by
  obtain ⟨v, hv, hcase⟩ := proceed_eq_next ht
  rcases exec_second hi hv with ⟨b, rfl⟩ | hperf
  · obtain ⟨hrun, -⟩ | ⟨-, rfl⟩ := hcase
    · cases hrun
    · exact .fault b
  · obtain ⟨-, ht⟩ | ⟨hstop, -⟩ := hcase
    · cases ht
      have hnr' : v.nr = u.nr := hperf.same.fields .nr (nr_notMem_writes i)
      exact h.goto (hperf.ctlp.trans hu) (hnr'.trans hnr) hm
    · exact absurd (hperf.running (inRun_of_running hr)) hstop

/-- Where the line leaves the clock and does not ask for its level, its rest asks for no other. -/
theorem State.FreshAt.rest {code : Code} {after : State → Out} (h : s.FreshAt l stack)
    (hcross : crossesClock l = false) (hl : l ≠ .rs2) (hc : line l s = .operation code after)
    (hr : u.runState = .running) (hu : u.ctlp = s.ctlp) (hnr : u.nr = s.nr)
    (ht : after u = .next t) : s.KeepsPhase t := by
  cases l <;> simp only [line, operate] at hc
  case rs2 => exact absurd rfl hl
  case rs7 | gw7 | gw13 | gw16 => cases hcross
  case rs3 =>
    cases hc; cases ht; split
    · exact withReg_ind (P := fun v => s.KeepsPhase v) (.fault _) fun v =>
        h.call (f := .rs4) (e := .na1) hu hnr rfl
    · exact h.goto hu hnr rfl
  case rc2 | rc3 | rc4 | na1 | ae2n1 => cases hc; cases ht; exact h.goto hu hnr (by split <;> rfl)
  case rs5 | rs6 | na2 | ae2n2 | ae2n3 | gw1 | gw2 => cases hc; cases ht; exact h.goto hu hnr rfl
  case rs9 | ae4 | na3 => cases hc; cases ht; exact h.ret hu hnr (by decide) rfl nofun
  case rs4 | rs8 | ae3 | rc5 | rc7 | rc9 | sd1 => cases hc; cases ht; exact h.goto hu hnr rfl
  case ae1 => split at hc <;> cases hc; cases ht; exact h.ret hu hnr (by decide) rfl nofun
  case rc6 =>
    cases hc; cases ht; split
    · exact h.goto hu hnr rfl
    · exact h.goto hu hnr rfl
  case rc8 =>
    cases hc; cases ht; split
    · exact h.goto hu hnr rfl
    · exact h.ret hu hnr (by decide) rfl nofun
  case rc10 => split at hc <;> cases hc; cases ht; exact h.ret hu hnr (by decide) rfl nofun
  case gw3 =>
    cases hc; cases ht
    refine ⟨fun _ _ _ => rfl, .inr ?_⟩
    rw [h.asks_of_ne (by decide)]
    rfl
  case gw8 => split at hc <;> cases hc; cases ht; exact h.goto hu hnr rfl
  case gw18 => split at hc <;> cases hc; cases ht; exact h.stay hu hnr
  case gw19 => cases hc; exact h.second rfl hr hu hnr rfl ht
  case gw20 =>
    split at hc <;> cases hc; cases ht
    exact h.call (f := .gwRet) (e := .rs1) hu hnr rfl
  case sd2 | sd4 => split at hc <;> cases hc; cases ht; exact h.goto hu hnr rfl
  case sd3 | sd5 =>
    split at hc <;> cases hc
    exact h.second (isSecond_accAddBit _ _) hr hu hnr rfl ht
  case rc1 => split at hc <;> cases hc
  all_goals cases hc

/-- Where the line crosses a clock edge, its rest asks for the other level. -/
theorem State.FreshAt.rest_crosses {code : Code} {after : State → Out} (h : s.FreshAt l stack)
    (hcross : crossesClock l = true) (hc : line l s = .operation code after) (hnr : u.nr = s.nr)
    (ht : after u = .next t) : t.clockIdle = s.clockIdle.map not := by
  have hidle := fun hne => h.asks_of_ne (l := l) hne
  cases l <;> simp only [line, operate] at hc
  case rs7 | gw7 | gw16 => cases hc; cases ht; rw [hidle (by decide)]; rfl
  case gw13 =>
    cases hc; cases ht
    rw [hidle (by decide)]
    exact congrArg (fun b => some !b) (hnr.trans (h.nr rfl))
  all_goals cases hcross

/-- A clock edge changes the clock's level. -/
theorem exec_advEdgeClk_level (hwf : s.cap.wf = true) (h : exec .curAdvEdgeClk s = .next u)
    (hr : u.runState = .running) : u.levelOf .clk = !s.levelOf .clk := by
  obtain hstop | ⟨hperf, -, hnext⟩ := advEdgeOp_result h
  · exact absurd hr hstop.not_running
  · rw [State.levelOf, hperf.same.cap]
    exact hnext.firstAfter.level hwf

theorem crossesClock_operation {d : BitVec 2} {i : Instr} (h : operationAt d l = some i)
    (hcross : crossesClock l = true) : i = .curAdvEdgeClk := by
  cases l
  case rs7 | gw7 | gw13 | gw16 => cases h; rfl
  all_goals cases hcross

theorem State.FreshAt.asks_of_reaches (h : s.FreshAt l stack) (hreach : reachesSample l = true) :
    s.clockIdle = none := by
  rw [h.asks]
  cases l
  case rs6 | ae4 => rfl
  all_goals cases hreach

theorem State.KeepsPhase.asksNothing (h : s.KeepsPhase t) (hs : s.clockIdle = none) :
    t.clockIdle = none :=
  h.asks.elim id fun hsame => hsame.trans hs

/-- `RS.2` goes by the level it has read. -/
theorem rs2_rest {code : Code} {after : State → Out} (hc : line .rs2 s = .operation code after)
    (ht : after u = .next t) : t.clockIdle = some (u.ansBit == u.cpol) := by
  cases hc; cases ht
  dsimp only
  cases heq : u.ansBit == u.cpol
  · rw [if_neg (ne_of_beq_false heq)]; rfl
  · rw [if_pos (eq_of_beq heq)]; rfl

theorem exec_curLevelClk_ansBit (h : exec .curLevelClk s = .next u) :
    u.ansBit = s.levelOf .clk := by
  cases h; rfl

/-- What is performed and the rest of its line leave the clock as its place asks. -/
theorem State.ClockPhase.performed {i : Instr} {code : Code} {after : State → Out}
    (h : s.ClockPhase) (hat : s.FreshAt l stack) (hwf : s.cap.wf = true)
    (hc : line l s = .operation code after) (hop : operationAt s.mdir l = some i)
    (hu : exec i s = .next u) (hperf : s.Performed (writes i) u) (hrun : u.runState = .running)
    (ht : after u = .next t) : t.ClockPhase := by
  have hnr : u.nr = s.nr := hperf.same.fields .nr (nr_notMem_writes i)
  obtain ⟨v, hv, hf⟩ := line_rest_frame hc u
  cases hv.symm.trans ht
  have hcfgl : t.cfgl = s.cfgl := hf.cfgl.trans hperf.same.cfgl
  have hlevel : t.levelOf .clk = u.levelOf .clk := by
    rw [State.levelOf, hf.cap, hf.pos, State.levelOf]
  cases hcross : crossesClock l with
  | true =>
    have hasks := hat.rest_crosses hcross hc hnr ht
    cases crossesClock_operation hop hcross
    intro b hb
    rw [hasks, Option.map_eq_some_iff] at hb
    obtain ⟨c, hs, rfl⟩ := hb
    rw [hlevel, exec_advEdgeClk_level hwf hu hrun, State.cpol, hcfgl, ← h c hs, State.cpol]
    cases s.levelOf .clk <;> cases cfgCpol s.cfgl <;> rfl
  | false =>
    have hkept (hreach : reachesSample l = false) : t.levelOf .clk = s.levelOf .clk := by
      have hpos : u.pos.get .clk = s.pos.get .clk :=
        hperf.same.fields (.pos .clk) (operationAt_keepsClock hop hcross hreach)
      rw [hlevel, State.levelOf, hpos, hperf.same.cap, State.levelOf]
    by_cases hask : l = .rs2
    case pos =>
      subst hask
      cases hop
      intro b hb
      rw [rs2_rest hc ht, exec_curLevelClk_ansBit hu, ← hkept rfl] at hb
      cases hb
      rw [State.cpol, State.cpol, hf.cfgl]
    case neg =>
      have hkeeps := hat.rest hcross hask hc hrun hperf.ctlp hnr ht
      cases hreach : reachesSample l with
      | true => exact .of_none (hkeeps.asksNothing (hat.asks_of_reaches hreach))
      | false => exact h.of_asks (hkept hreach) hcfgl hkeeps.asks

theorem State.ClockPhase.operation {code : Code} {after : State → Out} (h : s.ClockPhase)
    (hin : s.InControl) (hat : s.FreshAt l stack) (hwf : s.cap.wf = true)
    (hc : line l s = .operation code after) (ht : proceed (execCode code s) after = .next t) :
    t.ClockPhase := by
  obtain ⟨i, hop, -, ⟨-, hstop⟩ | ⟨u, hu, hperf, hrun, hafter⟩⟩ := operation_cases hin hat.ctlp hc ht
  case inl =>
    have hnr : t.nr = s.nr := hstop.same.fields .nr (by decide)
    have hpos : t.pos.get .clk = s.pos.get .clk := hstop.same.fields (.pos .clk) (by decide)
    refine h.of_asks (by rw [State.levelOf, hpos, hstop.same.cap, State.levelOf])
      hstop.same.cfgl ?_
    rcases hstop.stops with ⟨-, hctlp⟩ | ⟨-, hctlp⟩
    · exact .inr (clockIdle_congr hctlp hnr)
    · exact .inl (by rw [State.clockIdle, State.top, hctlp])
  case inr => exact h.performed hat hwf hc hop hu hperf hrun hafter

/-! ## A step -/

theorem decoderStep_clockPhase (hin : s.InControl) (hfresh : s.Fresh) (hwf : s.cap.wf = true)
    (h : s.ClockPhase) (ht : decoderStep s = .next t) : t.ClockPhase := by
  rw [hin.decoderStep_eq] at ht
  obtain ⟨hin, hfresh, hwf, h⟩ : (settle settleFuel s).InControl ∧ (settle settleFuel s).Fresh ∧
      (settle settleFuel s).cap.wf = true ∧ (settle settleFuel s).ClockPhase := by
    refine settle_keeps_atLine
      (P := fun s => s.InControl ∧ s.Fresh ∧ s.cap.wf = true ∧ s.ClockPhase)
      (fun l stack s t hl ht ⟨hin, hfresh, hwf, h⟩ => ?_) settleFuel ⟨hin, hfresh, hwf, h⟩
    have hkeeps := State.FreshAt.silent ⟨hfresh, hin.stack, hl⟩ ht
    have hf := line_silent_frame ht
    refine ⟨hin.silent hl ht, hkeeps.fresh, hf.cap ▸ hwf, h.of_asks ?_ hf.cfgl hkeeps.asks⟩
    rw [State.levelOf, hf.cap, hf.pos, State.levelOf]
  generalize settle settleFuel s = u at hin hfresh hwf h ht
  rcases pointStep_cases hin ht with ⟨-, rfl⟩ | ⟨l, stack, c, after, hl, hc, ht⟩
  · exact h
  · exact h.operation hin ⟨hfresh, hin.stack, hl⟩ hwf hc ht

/-! ### The inputs -/

theorem State.ClockPhase.of_same (h : s.ClockPhase) (hctlp : t.ctlp = s.ctlp) (hnr : t.nr = s.nr)
    (hcfgl : t.cfgl = s.cfgl) (hcap : t.cap = s.cap) (hpos : t.pos = s.pos) : t.ClockPhase :=
  h.of_asks (by rw [State.levelOf, hcap, hpos, State.levelOf]) hcfgl
    (.inr (clockIdle_congr hctlp hnr))

theorem ctrlWriteOp_clockPhase {v : Word} (h : s.ClockPhase) (ht : ctrlWriteOp v s = .next t) :
    t.ClockPhase := by
  have hgo : s.goBit.ClockPhase := by
    unfold State.goBit; split
    · exact h
    · split
      · exact .of_none rfl
      · exact h.of_same rfl rfl rfl rfl rfl
  have hcancel {u : State} (hu : u.ClockPhase) : u.cancelBit.ClockPhase :=
    hu.of_same (by simp) (by simp) (by simp) (by simp) (by simp)
  have haccepted {u : State} (hu : u.ClockPhase) : u.accepted.ClockPhase :=
    hu.of_same rfl rfl rfl rfl rfl
  cases ht
  split <;> split
  · exact haccepted (hcancel hgo)
  · exact haccepted (hcancel h)
  · exact haccepted hgo
  · exact haccepted h

theorem hostInput_clockPhase {a : HostAccess} (h : s.ClockPhase)
    (ht : hostInput a s = .next t) : t.ClockPhase := by
  unfold hostInput at ht
  split at ht
  case h_2 => cases ht; exact h.of_same rfl rfl rfl rfl rfl
  case h_1 i _ hi =>
    rcases decodeHa_cases (show decodeHa _ _ = some i from hi) with
      rfl | rfl | rfl | rfl | rfl | rfl | rfl | rfl
    case inr.inr.inr.inl => exact ctrlWriteOp_clockPhase h (exec_ctrlWrite _ s ▸ ht)
    all_goals cases ht; exact h.of_same rfl rfl rfl rfl rfl

/-- A capture is presented between runs only, where control is nowhere. -/
theorem presentInput_clockPhase {cap : Capture} {hz : PerChannel Nat} (hin : s.InControl)
    (ht : presentInput cap hz s = .next t) : t.ClockPhase := by
  unfold presentInput at ht
  split at ht
  case isTrue => cases ht
  case isFalse hr =>
    have hctlp : s.ctlp = [] := by
      by_contra hne
      exact hr (hin.running.mpr hne)
    split at ht <;> cases ht
    exact .of_none (by simp only [State.clockIdle, State.top, hctlp])

/-- Settles O52, by the schedule's next entry; in a decoder step a line that leaves the clock asks
for no other level than before, and one that crosses a clock edge asks for the other level. -/
theorem clockAlternates : Obligations.ClockAlternates := by
  unfold Obligations.ClockAlternates
  intro s t hproper h hstep
  have hin := hproper.sound.inControl
  have hfresh := hproper.isFresh
  have hwf := hproper.sound.capture
  rcases step_cases hstep with ⟨-, ht⟩ | ⟨e, rest, -, ht⟩
  · exact decoderStep_clockPhase hin hfresh hwf h ht
  · replace hin : ({ s with env := rest } : State).InControl :=
      ⟨hin.stack, hin.running, hin.direction⟩
    replace h : ({ s with env := rest } : State).ClockPhase := h
    cases e with
    | decoder =>
      exact decoderStep_clockPhase (s := { s with env := rest }) hin hfresh hwf h ht
    | host a => exact hostInput_clockPhase h ht
    | bus addr write size data =>
      simp only [inputStep, busInput] at ht
      split at ht
      · exact hostInput_clockPhase h ht
      · cases ht; exact h
    | grow c n => cases ht; exact h
    | present cap hz => exact presentInput_clockPhase hin ht
    | rst => cases ht; exact .of_none rfl

end

end Sys2Proof.Machine
end

section
/-! The poll, the main loop and the words that a predicted toggle ends: the statements of
44_word_extraction.md R125 to R127 and R130 to R132. -/

namespace Sys2Proof.Machine

open Sys2Proof

section
variable {s t : State} {l : Label} {stack : List Point}

/-! ## The poll (44_word_extraction.md R126) -/

theorem exec_poll_pending (h : s.cp = true) : exec .poll s = .next { s with
    op := 0x81, runState := .doneCancel, cause := .cancelled, ctlp := [] } :=
  congrArg Host.Outcome.next (if_pos h)

theorem exec_poll_quiet (h : s.cp = false) :
    exec .poll s = .next { s with op := 0x81, runState := s.runState.resumed } :=
  congrArg Host.Outcome.next (if_neg (ne_true_of_eq_false h))

/-! ## A line whose operation is that of one instruction -/

theorem decoderStep_operate {i : Instr} {f : State → State} (hr : s.inRun = true)
    (hl : s.ctlp = .line l :: stack) (hc : line l s = operate (encode i) f) (hi : i.wf = true) :
    decoderStep s = proceed (exec i s) fun u => .next (f u) := by
  rw [decoderStep_of_settled hr (settled_of_operation hl hc), pointStep_operation hl hc,
    execCode_of_decode (decode_encode hi)]

/-- Settles O19: the two branches of the poll, and `GW.1` is a line whose operation it is. -/
theorem pollCancel : Obligations.PollCancel := by
  unfold Obligations.PollCancel
  intro s
  refine ⟨exec_poll_pending, exec_poll_quiet, fun rest hl hr hcp => ?_⟩
  rw [decoderStep_operate (i := .poll) hr hl rfl rfl, exec_poll_pending hcp]
  rfl

/-! ## The main loop (44_word_extraction.md R125) -/

/-- One line without an operation, of those control goes through. -/
theorem settle_atLine {n : Nat} {u : State} (h : line l (s.atLine l stack) = .silent t)
    (k : settle n t = u) : settle (n + 1) (s.atLine l stack) = u :=
  (settle_silent rfl h n).trans k

theorem settle_atOperation {c : Code} {after : State → Out} (n : Nat)
    (h : line l (s.atLine l stack) = .operation c after) :
    settle n (s.atLine l stack) = s.atLine l stack :=
  settle_of_settled (settled_of_operation rfl h) n

/-- A line that calls a procedure and finds room for its label. -/
theorem line_call {f e : Label}
    (h : line l (s.atLine l stack) = .silent ((s.atLine l stack).call f e))
    (hd : stack.length < 3) :
    line l (s.atLine l stack) = .silent (s.atLine e (.line f :: stack)) :=
  h.trans (congrArg Line.silent (State.call_eq_atLine rfl hd))

/-- The calls of `RUN.1` and `RUN.2`, up to `RESYNC`'s call of `ADV_ACTIVE_ENABLE`. -/
theorem settle_run1 (n : Nat) (s : State) : settle (n + 4) (s.atLine .run1 []) =
    settle n ({ s with mdir := markerDirection s.cfgl }.atLine .ae1 [.line .rs2, .line .run3]) := by
  have hsetup : line .su1 (s.atLine .su1 [.line .run2]) =
      .silent ({ s with mdir := markerDirection s.cfgl }.atLine .run2 []) := rfl
  exact settle_atLine (line_call rfl (by decide)) (settle_atLine hsetup
    (settle_atLine (line_call rfl (by decide)) (settle_atLine (line_call rfl (by decide)) rfl)))

/-- `ADV_ACTIVE_ENABLE` calls `NEXT_ACTIVE_EDGE` where the enable channel is present. -/
theorem settle_ae1 {n : Nat} (hd : stack.length < 3) : settle (n + 2) (s.atLine .ae1 stack) =
    if s.present .en then s.atLine .na1 (.line .ae3 :: stack) else s.atLine .ae1 stack := by
  cases hp : s.present .en with
  | false => exact settle_atOperation _ (if_neg (ne_true_of_eq_false hp))
  | true =>
    exact settle_atLine (if_pos hp) (settle_atLine
      (congrArg Line.silent (State.callNextActive_room (s := s.atLine .ae2 stack) rfl hd))
      (settle_atOperation (s := s) n rfl))

theorem settle_run3 {n : Nat} (s : State) :
    settle (n + 1) (s.atLine .run3 []) = s.atLine .gw1 [.line .run4] :=
  settle_atLine (line_call rfl (by decide)) (settle_atOperation _ rfl)

/-- Settles O23: each call is one line without an operation, and the last one leads to a line with
one. -/
theorem runLoop : Obligations.RunLoop := by
  unfold Obligations.RunLoop
  intro s
  constructor
  · intro hl
    refine (congrArg (settle settleFuel) (State.atLine_self hl)).symm.trans
      ((settle_run1 36 s).trans ((settle_ae1 (by decide)).trans ?_))
    change (if s.present .en then _ else _) = _
    cases s.present .en <;> rfl
  · rintro (hl | hl) <;> refine (congrArg (settle settleFuel) (State.atLine_self hl)).symm.trans ?_
    · exact settle_run3 s
    · exact settle_atLine rfl (settle_run3 s)

/-! ## The end of a word (44_word_extraction.md R130, R132) -/

theorem exec_emitStart_inRun (h : s.inRun = true) (hw : s.cs.written = true) :
    exec .emitStart s = .next { s with
      op := 0xC4, runState := .running, sink := s.sink ++ [Record.start s.cs.val] } := by
  change emitStartOp _ s = _
  rw [emitStartOp, withReg_written (r := .cs) _ hw, State.emit, State.performing,
    State.resumed_of_inRun h]
  rfl

/-- `GW.20` after a word cut off: the deferred `DISABLE`, then the call of `RESYNC`. -/
theorem decoderStep_gw20 (hr : s.inRun = true) (hl : s.ctlp = .line .gw20 :: stack)
    (hd : stack.length < 3) (hnr : s.nr = true) (hw : s.ds.written = true) :
    decoderStep s = .next { s with
      op := 0xCC, runState := .running, cause := .transactionEnd
      ctlp := .line .rs1 :: .line .gwRet :: stack
      sink := s.sink ++ [.disable s.ds.val] } := by
  have hline : line .gw20 s = operate (encode (.emitDisable .ds)) fun t =>
      (t.record .transactionEnd).call .gwRet .rs1 := if_pos hnr
  rw [decoderStep_operate hr hl hline rfl, exec_emitDisable_inRun (r := .ds) hr hw, proceed,
    if_pos rfl]
  exact congrArg Host.Outcome.next (State.call_eq_atLine (stack := stack) hl hd)

/-- `RS.9` emits `START` and returns. -/
theorem decoderStep_rs9 (hr : s.inRun = true) (hl : s.ctlp = .line .rs9 :: stack)
    (hw : s.cs.written = true) :
    decoderStep s = .next { s with
      op := 0xC4, runState := .running, ctlp := stack
      sink := s.sink ++ [.start s.cs.val] } := by
  rw [decoderStep_operate (i := .emitStart) hr hl rfl rfl, exec_emitStart_inRun hr hw, proceed,
    if_pos rfl, State.ret, hl, List.tail_cons]

theorem WorkReg.eq_holding {r : WorkReg} (h : r.written = true) : r = .holding r.val := by
  cases r; cases h; rfl

/-- Settles O33: each line by its branch; `RESYNC`'s last line emits `START` and returns. -/
theorem wordEndsAtToggle : Obligations.WordEndsAtToggle := by
  unfold Obligations.WordEndsAtToggle
  intro s rest hd
  refine ⟨fun hl hrt => ?_, fun hl hrt => ?_, fun hl hrt hw => ?_,
    fun hl hr => decoderStep_gw20 hr hl hd,
    fun hl hr hw => ⟨_, decoderStep_rs9 hr hl hw, rfl, rfl, rfl⟩, fun hl => ?_⟩
  · exact congrArg Line.silent ((if_pos hrt).trans (State.call_eq_atLine (s := s.record _) hl hd))
  · exact congrArg Line.silent ((if_pos hrt).trans (State.call_eq_atLine (s := s.record _) hl hd))
  · refine congrArg Line.silent ((if_pos hrt).trans ((withReg_written (r := .rs) _ hw).trans ?_))
    rw [WorkReg.eq_holding hw, ← State.atLine_self hl]
    rfl
  · rw [← State.atLine_self hl]
    rfl

end

end Sys2Proof.Machine
end

section
/-! Where control comes to through operations and lines without one, the steps of `SAMPLE_DATA`, and
the statement of 44_word_extraction.md R129. -/

namespace Sys2Proof.Machine

open Sys2Proof

/-! ## Where control comes to -/

/-- From `s` control comes to `t`, by steps of the machine and by lines without an operation. -/
inductive State.Comes : State → State → Prop
  | here (s : State) : s.Comes s
  | step {s t u : State} (h : step s = .next t) (k : t.Comes u) : s.Comes u
  | silent {s t u : State} {l : Label} {stack : List Point} (hs : s.Ready) (hd : stack.length ≤ 3)
      (h : line l (s.atLine l stack) = .silent t) (ht : t.Ready) (k : t.Comes u) :
      (s.atLine l stack).Comes u

section
variable {s t u : State} {l m : Label} {stack : List Point}

theorem State.Comes.trans (h : s.Comes t) (k : t.Comes u) : s.Comes u := by
  induction h with
  | here => exact k
  | step h _ ih => exact .step h (ih k)
  | silent hs hd h ht _ ih => exact .silent hs hd h ht (ih k)

theorem State.Comes.goto (hs : s.Ready) (hd : stack.length ≤ 3)
    (h : line l (s.atLine l stack) = .silent ((s.atLine l stack).goto m))
    (k : (s.atLine m stack).Comes u) : (s.atLine l stack).Comes u :=
  .silent hs hd h ⟨hs.running, hs.env⟩ k

theorem State.Comes.of_steps {k : Nat} (h : steps k s = .next t) : s.Comes t := by
  induction k generalizing s with
  | zero => cases h; exact .here _
  | succ k ih =>
    rw [steps] at h
    split at h
    case h_1 u hu => exact .step hu (ih h)
    all_goals cases h

theorem State.Reaches.comes (h : s.Reaches t) : s.Comes t := by
  obtain ⟨k, hk⟩ := h
  exact .of_steps hk

/-- Lines without an operation are performed with the step that follows (00_scope.md R13). -/
theorem State.Comes.reaches (h : s.Comes t) (k : t.Reaches u) : s.Reaches u := by
  induction h with
  | here => exact k
  | step h _ ih => exact .head h (ih k)
  | silent hs hd h ht _ ih => exact .of_step_eq (hs.step_silent hd h ht) (ih k)

/-- The lines without an operation at the end are those control settles through. -/
theorem State.Comes.settles (h : s.Comes t) :
    ∃ k j v, steps k s = .next v ∧ settle j v = t := by
  induction h with
  | here s => exact ⟨0, 0, s, rfl, rfl⟩
  | step h _ ih =>
    obtain ⟨k, j, v, hk, hj⟩ := ih
    exact ⟨k + 1, j, v, (steps_succ h k).trans hk, hj⟩
  | silent hs hd h ht _ ih =>
    obtain ⟨k, j, v, hk, hj⟩ := ih
    cases k with
    | zero =>
      cases hk
      exact ⟨0, j + 1, _, rfl, settle_atLine h hj⟩
    | succ k =>
      refine ⟨k + 1, j, v, ?_, hj⟩
      rw [← hk, steps, steps, hs.step_silent hd h ht]

/-- A line with an operation, whatever its rest. -/
theorem State.Ready.step_operation {i : Instr} {after : State → Out} (hs : s.Ready)
    (hc : line l (s.atLine l stack) = .operation (encode i) after) (hi : i.wf = true)
    (hx : exec i (s.atLine l stack) = .next u) (hu : u.runState = .running) :
    step (s.atLine l stack) = after u := by
  rw [step_of_env_nil (hs.atLine l stack).env,
    decoderStep_of_settled (hs.atLine l stack).inRun (settled_of_operation rfl hc),
    pointStep_operation rfl hc, execCode_of_decode (decode_encode hi), hx, proceed, if_pos hu]

/-! ## The lines of `SAMPLE_DATA` (44_word_extraction.md R129) -/

theorem exec_accAddBit_running {a : AccSel} {b : Level} (hr : s.runState = .running)
    (h : (s.acc a).r ≠ 0#7) : ∃ op, exec (.accAddBit a b) s =
      .next ({ s with op := op }.setAcc a ((s.acc a).addBit (cfgOrder s.cfgl) s.N b)) :=
  ⟨_, by rw [exec_accAddBit_eq, accAddBitOp_of_ne_zero h, State.performing_of_running hr]⟩

/-- The two lines of a data channel: `move` brings its cursor to `CS`, `add` adds the level there to
its accumulator; neither does anything where the channel is absent. -/
structure SampleLines (move add next : Label) (a : AccSel) : Prop where
  move_eq : ∀ s, line move s = if s.present (accChannel a) then
    operate (encode (.advTo (accChannel a) .cs)) fun t => t.goto add else .silent (s.goto add)
  add_eq : ∀ s, line add s = if s.present (accChannel a) then
    .operation (encode (.level (accChannel a))) (addLevel a next) else .silent (s.goto next)

theorem sampleLines_dout : SampleLines .sd2 .sd3 .sd4 .dout := ⟨fun _ => rfl, fun _ => rfl⟩

theorem sampleLines_din : SampleLines .sd4 .sd5 .sd6 .din := ⟨fun _ => rfl, fun _ => rfl⟩

/-- Accumulator `a` with the bit its channel shows at sample `p`. -/
def State.fed (s : State) (p : Sample) (a : AccSel) : Accumulator :=
  if s.present (accChannel a) then
    (s.acc a).addBit (cfgOrder s.cfgl) s.N ((s.cap.wave.get (accChannel a)).levelAt p)
  else s.acc a

/-- The cursor of data channel `a`, brought to sample `p` where the channel is present. -/
def State.moved (s : State) (p : Sample) (a : AccSel) : PerChannel Sample :=
  if s.present (accChannel a) then s.pos.set (accChannel a) p else s.pos

/-- What `SAMPLE_DATA` asks of data channel `a` at sample `p`: the cursor is not past it, the data
up to it is there, and a bit is missing. -/
structure State.CanSample (s : State) (p : Sample) (a : AccSel) : Prop where
  behind : s.pos.get (accChannel a) ≤ p
  available : p.toNat < s.hz.get (accChannel a)
  missing : (s.acc a).r ≠ 0#7

theorem addLevel_running {a : AccSel} (hr : s.runState = .running) (h : (s.acc a).r ≠ 0#7) :
    ∃ op, addLevel a m s = .next ({ s with op := op }.setAcc a
      ((s.acc a).addBit (cfgOrder s.cfgl) s.N s.ansBit) |>.goto m) := by
  obtain ⟨op, hx⟩ := exec_accAddBit_running (b := s.ansBit) hr h
  exact ⟨op, by rw [addLevel, hx, proceed, if_pos (by simpa using hr)]⟩

theorem SampleLines.move_step {move add next : Label} {a : AccSel}
    (h : SampleLines move add next a) (hs : s.Ready) (hw : s.cs.written = true)
    (hp : s.present (accChannel a) = true) (ha : s.CanSample s.cs.val a) :
    ∃ op, step (s.atLine move stack) = .next ({ s with
      op := op, pos := s.pos.set (accChannel a) s.cs.val }.atLine add stack) := by
  obtain ⟨hbehind, havailable, -⟩ := ha
  exact ⟨_, hs.step_performed ((h.move_eq _).trans (if_pos hp)) (by cases a <;> rfl)
    (exec_advTo_running (s := s.atLine move stack) (r := .cs) hs.running hp hw hbehind havailable)
    hs.running⟩

theorem SampleLines.add_step {move add next : Label} {a : AccSel}
    (h : SampleLines move add next a) (hs : s.Ready) (hp : s.present (accChannel a) = true)
    (hr : (s.acc a).r ≠ 0#7) :
    ∃ op, step (s.atLine add stack) = .next (({ s with
        op := op, ansBit := s.levelOf (accChannel a) }.setAcc a
      ((s.acc a).addBit (cfgOrder s.cfgl) s.N (s.levelOf (accChannel a)))).atLine next stack) := by
  have hlevel := hs.step_operation (stack := stack) ((h.add_eq _).trans (if_pos hp))
    (by cases a <;> rfl) (exec_level_running (s := s.atLine add stack) hs.running hp) hs.running
  obtain ⟨op, hadd⟩ := addLevel_running (a := a) (m := next) (s := { s with
      op := 0x08#8 + channelCode (accChannel a)
      ansBit := s.levelOf (accChannel a) }.atLine add stack) hs.running (by cases a <;> exact hr)
  refine ⟨op, (hlevel.trans hadd).trans ?_⟩
  cases a <;> rfl

/-- The cursor of a present channel moves and its bit is added. -/
theorem SampleLines.comes_present {move add next : Label} {a : AccSel}
    (h : SampleLines move add next a) (hs : s.Ready) (hw : s.cs.written = true)
    (hp : s.present (accChannel a) = true) (ha : s.CanSample s.cs.val a) :
    ∃ op b, (s.atLine move stack).Comes
      (({ s with pos := s.pos.set (accChannel a) s.cs.val, op := op, ansBit := b }.setAcc a
        ((s.acc a).addBit (cfgOrder s.cfgl) s.N
          ((s.cap.wave.get (accChannel a)).levelAt s.cs.val))).atLine next stack) := by
  obtain ⟨op, hmove⟩ := h.move_step (stack := stack) hs hw hp ha
  obtain ⟨op', hadd⟩ := h.add_step (stack := stack)
    (s := { s with op := op, pos := s.pos.set (accChannel a) s.cs.val })
    ⟨hs.running, hs.env⟩ hp (by cases a <;> exact ha.missing)
  cases a <;> exact ⟨op', _, .step hmove (.step hadd (.here _))⟩

theorem SampleLines.comes {move add next : Label} {a : AccSel} {q : PerChannel Sample}
    (h : SampleLines move add next a) (hs : s.Ready) (hd : stack.length ≤ 3)
    (hw : s.cs.written = true) (ha : s.present (accChannel a) = true → s.CanSample s.cs.val a)
    (hq : s.moved s.cs.val a = q) :
    ∃ op b, (s.atLine move stack).Comes
      (({ s with pos := q, op := op, ansBit := b }.setAcc a (s.fed s.cs.val a)).atLine
        next stack) := by
  subst hq
  unfold State.moved State.fed
  cases hp : s.present (accChannel a) with
  | true => exact h.comes_present hs hw hp (ha hp)
  | false =>
    have hsame : s.setAcc a (s.acc a) = s := by cases a <;> rfl
    have hskip {l : Label} : ¬ (s.atLine l stack).present (accChannel a) = true :=
      ne_true_of_eq_false hp
    refine ⟨s.op, s.ansBit, ?_⟩
    change (s.atLine move stack).Comes ((s.setAcc a (s.acc a)).atLine next stack)
    rw [hsame]
    exact .goto hs hd ((h.move_eq _).trans (if_neg hskip))
      (.goto hs hd ((h.add_eq _).trans (if_neg hskip)) (.here _))

/-- What `SAMPLE_DATA` leaves at the clock's position, beside `OP` and the answers. -/
def State.sampled (s : State) : State := { s with
  cs := .holding s.pos.clk
  pos := { s.pos with
    dout := if s.present .dout then s.pos.clk else s.pos.dout
    din := if s.present .din then s.pos.clk else s.pos.din }
  accDout := s.fed s.pos.clk .dout
  accDin := s.fed s.pos.clk .din
  mb := s.mb ++ [s.pos.clk] }

theorem sd1_step (hs : s.Ready) :
    step (s.atLine .sd1 stack) = .next ({ s with
      op := 0x10, ansPos := s.pos.clk, cs := .holding s.pos.clk }.atLine .sd2 stack) :=
  hs.step_performed (i := .pos .clk) (f := fun u => (u.take .cs).goto .sd2) rfl rfl
    (exec_pos_running hs.running rfl) hs.running

/-- `SD.6` notes the sample and returns. -/
theorem line_sd6 (hmb : s.mb.length < 64) (hw : s.cs.written = true) :
    line .sd6 (s.atLine .sd6 stack) =
      .silent { s with mb := s.mb ++ [s.cs.val], ctlp := stack } :=
  congrArg Line.silent ((if_pos hmb).trans (withReg_written (r := .cs) _ hw))

theorem moved_get_of_ne (s : State) (p : Sample) {a : AccSel} {c : Channel} (h : c ≠ accChannel a) :
    (s.moved p a).get c = s.pos.get c := by
  unfold State.moved; split
  · exact PerChannel.get_set_of_ne _ _ _ _ h
  · rfl

/-- Both data cursors, the one after the other. -/
theorem moved_dout_din {p : Sample} (hcfgl : u.cfgl = s.cfgl) (hpos : u.pos = s.moved p .dout) :
    u.moved p .din = { s.pos with
      dout := if s.present .dout then p else s.pos.dout
      din := if s.present .din then p else s.pos.din } := by
  have hdin : u.present .din = s.present .din := by rw [State.present, hcfgl, State.present]
  rw [State.moved, accChannel, hdin, hpos, State.moved, accChannel]
  cases s.present .dout <;> cases s.present .din <;> rfl

theorem sd1_comes (hs : s.Ready) (hd : stack.length ≤ 3) (hmb : s.mb.length < 64)
    (ha : ∀ a, s.present (accChannel a) = true → s.CanSample s.pos.clk a) :
    ∃ op b, (s.atLine .sd1 stack).Comes
      { s.sampled with op := op, ansBit := b, ansPos := s.pos.clk, ctlp := stack } := by
  obtain ⟨op₁, b₁, hdout⟩ := sampleLines_dout.comes (stack := stack) (s := { s with
    op := 0x10, ansPos := s.pos.clk, cs := .holding s.pos.clk }) ⟨hs.running, hs.env⟩ hd rfl
    (fun hp => ⟨(ha .dout hp).behind, (ha .dout hp).available, (ha .dout hp).missing⟩) rfl
  obtain ⟨op₂, b₂, hdin⟩ := sampleLines_din.comes (stack := stack) (s := { s with
    op := op₁, ansBit := b₁, ansPos := s.pos.clk, cs := .holding s.pos.clk
    pos := s.moved s.pos.clk .dout, accDout := s.fed s.pos.clk .dout }) ⟨hs.running, hs.env⟩ hd rfl
    (fun hp => ⟨by
      rw [moved_get_of_ne s _ (by decide)]
      exact (ha .din hp).behind, (ha .din hp).available, (ha .din hp).missing⟩)
    (moved_dout_din (s := s) rfl rfl)
  have hnote := line_sd6 (stack := stack) (s := { s.sampled with
    mb := s.mb, op := op₂, ansBit := b₂, ansPos := s.pos.clk }) hmb rfl
  exact ⟨op₂, b₂, (State.Comes.step (sd1_step hs) hdout).trans (hdin.trans
    (.silent ⟨hs.running, hs.env⟩ hd hnote ⟨hs.running, hs.env⟩ (.here _)))⟩

/-- Settles O32: `SD.1` takes the clock's position, each data channel has its two lines, and `SD.6`
notes the position. -/
theorem sampleData : Obligations.SampleData := by
  unfold Obligations.SampleData
  intro s hr he hd hmb ha
  have hcall : exec .procSampleData s = .next (s.atLine .sd1 s.ctlp) :=
    congrArg _ (s.enter_eq_atLine hd .sd1)
  obtain ⟨op, b, hcomes⟩ := sd1_comes ⟨hr, he⟩ (Nat.le_of_lt_succ hd) hmb fun a hp =>
    ⟨(ha a hp).1, (ha a hp).2.1, (ha a hp).2.2⟩
  obtain ⟨k, j, v, hk, hj⟩ := hcomes.settles
  exact ⟨k, j, _, v, _, hcall, hk, hj, rfl⟩

end

end Sys2Proof.Machine
end

section
/-! The word inside a transaction: what `GET_WORD` has done at each point of a word whose clock
edges are there and cross no enable transition, and the statement of 44_word_extraction.md R127 to
R134. -/

namespace Sys2Proof.Machine

open Sys2Proof

/-! ## The clock edges still to be crossed -/

section
variable {s u : State} {t r : Sample} {rest : List Sample}

theorem clockEdges_sorted (hwf : s.cap.wf = true) : s.clockEdges.Pairwise (· < ·) := by
  have hwave := Capture.wf_wave hwf .clk
  simp only [Waveform.wf, Bool.and_eq_true, decide_eq_true_eq] at hwave
  exact hwave.1.sublist List.filter_sublist

theorem mem_clockEdges : t ∈ s.clockEdges ↔ t ∈ s.cap.wave.clk.edges ∧ s.pos.clk < t := by
  simp [State.clockEdges]

/-- The first of them is the clock's next transition, and crossing it leaves the others. -/
theorem clockEdges_cons (hwf : s.cap.wf = true) (h : s.clockEdges = t :: rest) :
    s.FirstAfter .clk t ∧ { s with pos := s.pos.set .clk t }.clockEdges = rest := by
  have hsorted := clockEdges_sorted hwf
  rw [h, List.pairwise_cons] at hsorted
  obtain ⟨hmem, hlt⟩ := mem_clockEdges.mp (h ▸ List.mem_cons_self)
  refine ⟨⟨hmem, hlt, fun e he hpe => ?_⟩, ?_⟩
  · rcases List.mem_cons.mp (h ▸ mem_clockEdges.mpr ⟨he, hpe⟩) with rfl | hrest
    · exact BitVec.le_refl _
    · exact BitVec.le_of_lt (hsorted.1 e hrest)
  · calc s.cap.wave.clk.edges.filter (fun e => decide (t < e))
        = s.clockEdges.filter (fun e => decide (t < e)) := by
          rw [State.clockEdges, List.filter_filter]
          refine List.filter_congr fun e _ => ?_
          rw [Bool.eq_iff_iff]
          simpa using fun hte => BitVec.lt_trans hlt hte
      _ = rest := by
          rw [h, List.filter_cons_of_neg (by simp [BitVec.lt_irrefl])]
          exact List.filter_eq_self.mpr fun e he => decide_eq_true (hsorted.1 e he)

end

/-! ## The word so far -/

/-- The clock edge of index `j` of the word that starts in `s`. -/
def State.wordEdge (s : State) (j : Nat) : Sample := s.clockEdges.getD j 0#64

/-- The bits that the channel of accumulator `a` sends in that word. -/
def State.sentBits (s : State) (a : AccSel) : List Level :=
  s.sampleEdges.map fun t => (s.cap.wave.get (accChannel a)).levelAt t

/-- The whole word lies in data that is available, and inside the transaction. -/
structure State.CleanWord (s : State) : Prop where
  legal : cfgLegal s.cfgl = true
  capture : s.cap.wf = true
  complete : ∀ c, s.present c = true → s.Complete c
  edges : 2 * s.N ≤ s.clockEdges.length
  inside : s.present .en = true → ∀ t ∈ s.cap.wave.en.edges,
    ¬ (s.pos.en < t ∧ t ≤ s.wordEdge (2 * s.N - 1))

/-- In `u` control is in the word that started in `s`, with `edges` clock edges crossed, `bits` bits
sampled and the registers `I` and `FS` as given. -/
structure State.Word (s u : State) (i : Nat) (fs : WorkReg) (bits edges : Nat) : Prop where
  ready : u.Ready
  cfgl : u.cfgl = s.cfgl
  cap : u.cap = s.cap
  hz : u.hz = s.hz
  mdir : u.mdir = s.mdir
  cause : u.cause = s.cause
  sink : u.sink = s.sink
  nr : u.nr = false
  enable : u.pos.en = s.pos.en
  index : u.i = BitVec.ofNat 7 i
  start : u.fs = fs
  ahead : u.clockEdges = s.clockEdges.drop edges
  clock : 0 < edges → u.pos.clk = s.wordEdge (edges - 1)
  behind : ∀ a, s.present (accChannel a) = true → u.pos.get (accChannel a) ≤ u.pos.clk
  markers : u.mb = s.sampleEdges.take bits
  sent : ∀ a, s.present (accChannel a) = true →
    (u.acc a).Holds (cfgOrder s.cfgl) s.N ((s.sentBits a).take bits)
  unsent : ∀ a, s.present (accChannel a) = false → (u.acc a).v = 0#64

section
variable {s u : State} {i bits edges : Nat} {fs : WorkReg} {l m next : Label}
  {stack : List Point}

/-- A change of what the word does not need again. -/
theorem State.Word.update (h : s.Word u i fs bits edges) (cs ds es rs rn : WorkReg) (rt : Bool)
    (ctlp : List Point) (op : BitVec 8) (ansBit : Bool) (ansPos : Sample) (k : BitVec 7)
    (raceEmit : Bool) :
    s.Word { u with
      cs := cs, ds := ds, es := es, rs := rs, rn := rn, rt := rt, ctlp := ctlp, op := op
      ansBit := ansBit, ansPos := ansPos, k := k, raceEmit := raceEmit } i fs bits edges :=
  ⟨⟨h.ready.running, h.ready.env⟩, h.cfgl, h.cap, h.hz, h.mdir, h.cause, h.sink, h.nr, h.enable,
    h.index, h.start, h.ahead, h.clock, h.behind, h.markers, fun a => by cases a <;> exact h.sent _,
    fun a => by cases a <;> exact h.unsent _⟩

theorem State.Word.present (h : s.Word u i fs bits edges) (c : Channel) :
    u.present c = s.present c := by
  rw [State.present, h.cfgl, State.present]

theorem State.Word.N (h : s.Word u i fs bits edges) : u.N = s.N := by
  rw [State.N, h.cfgl, State.N]

theorem State.Word.edge (h : s.Word u i fs bits edges) : u.edge = s.edge := by
  rw [State.edge, h.cfgl, State.edge]

theorem State.Word.complete (h : s.Word u i fs bits edges) (hs : s.CleanWord) {c : Channel}
    (hc : s.present c = true) : u.Complete c := by
  rw [State.Complete, h.hz, h.cap]
  exact hs.complete c hc

theorem State.Word.index_toNat (h : s.Word u i fs bits edges) (hi : i < 128) : u.i.toNat = i := by
  rw [h.index, BitVec.toNat_ofNat, Nat.mod_eq_of_lt hi]

/-! ### The next clock edge -/

theorem wordEdge_mem (h : edges < s.clockEdges.length) : s.wordEdge edges ∈ s.clockEdges := by
  rw [State.wordEdge, List.getD_eq_getElem _ _ h]
  exact List.getElem_mem h

theorem wordEdge_mono (hwf : s.cap.wf = true) {j k : Nat} (hjk : j ≤ k)
    (hk : k < s.clockEdges.length) : s.wordEdge j ≤ s.wordEdge k := by
  rw [State.wordEdge, State.wordEdge, List.getD_eq_getElem _ _ hk,
    List.getD_eq_getElem _ _ (hjk.trans_lt hk)]
  rcases hjk.eq_or_lt with rfl | hlt
  · exact BitVec.le_refl _
  · exact BitVec.le_of_lt (List.pairwise_iff_getElem.mp (clockEdges_sorted hwf) _ _ _ _ hlt)

theorem State.Word.ahead_cons (h : s.Word u i fs bits edges) (hj : edges < s.clockEdges.length) :
    u.clockEdges = s.wordEdge edges :: s.clockEdges.drop (edges + 1) := by
  rw [h.ahead, List.drop_eq_getElem_cons hj, State.wordEdge, List.getD_eq_getElem _ _ hj]

/-- The clock's next edge is available. -/
theorem State.Word.nextAvailable (h : s.Word u i fs bits edges) (hs : s.CleanWord)
    (hj : edges < 2 * s.N) : u.NextAvailable .clk (s.wordEdge edges) := by
  have hwf : u.cap.wf = true := h.cap ▸ hs.capture
  have hfirst := (clockEdges_cons hwf (h.ahead_cons (hj.trans_le hs.edges))).1
  exact hfirst.nextAvailable ((h.complete hs rfl).available (c := .clk) hwf hfirst.1)

/-- Crossing it. -/
theorem State.Word.cross (h : s.Word u i fs bits edges) (hs : s.CleanWord)
    (hj : edges < 2 * s.N) :
    s.Word { u with pos := u.pos.set .clk (s.wordEdge edges) } i fs bits (edges + 1) := by
  have hwf : u.cap.wf = true := h.cap ▸ hs.capture
  obtain ⟨hfirst, hrest⟩ := clockEdges_cons hwf (h.ahead_cons (hj.trans_le hs.edges))
  refine ⟨⟨h.ready.running, h.ready.env⟩, h.cfgl, h.cap, h.hz, h.mdir, h.cause, h.sink, h.nr,
    h.enable, h.index, h.start, hrest, fun _ => rfl, fun a ha => ?_, h.markers,
    fun a => by cases a <;> exact h.sent _, fun a => by cases a <;> exact h.unsent _⟩
  have hle := BitVec.le_trans (h.behind a ha) (BitVec.le_of_lt hfirst.2.1)
  cases a <;> exact hle

/-- A line that crosses the clock's next edge. -/
theorem State.Word.cross_step (h : s.Word u i fs bits edges) (hs : s.CleanWord)
    (hj : edges < 2 * s.N) {f : State → State}
    (hl : ∀ v, line l v = operate (encode (.advEdge .clk)) f) :
    ∃ v, s.Word v i fs bits (edges + 1) ∧
      step (u.atLine l stack) = .next (f (v.atLine l stack)) :=
  ⟨{ u with op := 0x18, pos := u.pos.set .clk (s.wordEdge edges) },
    (h.cross hs hj).update ..,
    h.ready.step_performed (hl _) rfl
      (exec_advEdge_running (s := u.atLine l stack) h.ready.running rfl (h.nextAvailable hs hj))
      h.ready.running⟩

/-! ### The check before it (44_word_extraction.md R127, 43_race_detection.md R122) -/

/-- No enable transition lies up to the next clock edge. -/
theorem State.Word.clear (h : s.Word u i fs bits edges) (hs : s.CleanWord)
    (hj : edges < 2 * s.N) (hp : s.present .en = true) :
    u.crosses .en (s.wordEdge edges) = false := by
  rw [Bool.eq_false_iff, Ne, State.crosses_iff]
  rintro ⟨t, ht, hlt, hle⟩
  rw [h.cap] at ht
  change u.pos.en < t at hlt
  rw [h.enable] at hlt
  have hlast : s.wordEdge edges ≤ s.wordEdge (2 * s.N - 1) :=
    wordEdge_mono hs.capture (by omega) (by have := hs.edges; omega)
  exact hs.inside hp t ht ⟨hlt, BitVec.le_trans hle hlast⟩

/-- `RACE_CHECK` predicts no toggle and returns to the caller's label. -/
theorem State.Word.rc1_comes (h : s.Word u i fs bits edges) (hs : s.CleanWord)
    (hj : edges < 2 * s.N) (hd : stack.length < 3) :
    ∃ v, s.Word v i fs bits edges ∧ v.rt = false ∧
      (u.atLine .rc1 (.line m :: stack)).Comes (v.atLine m stack) := by
  have hnext := h.nextAvailable hs hj
  cases hp : s.present .en with
  | true =>
    have hen : (s.wordEdge edges).toNat < u.hz.en :=
      (h.complete hs hp).available (c := .clk) (h.cap ▸ hs.capture) hnext.1
    exact ⟨{ u with
        rt := false, rn := .holding (s.wordEdge edges), op := 0x33, ansBit := false
        ansPos := s.wordEdge edges }, h.update .., rfl,
      (rc1_reaches_clear (stack := .line m :: stack) h.ready (Nat.succ_le_of_lt hd)
        ((h.present .en).trans hp) hnext hen (h.clear hs hj hp)).comes⟩
  | false =>
    have hline : line .rc1 (u.atLine .rc1 (.line m :: stack)) =
        .silent ({ u with rt := false }.atLine m stack) :=
      if_neg (ne_true_of_eq_false ((h.present .en).trans hp))
    exact ⟨{ u with rt := false }, h.update .., rfl,
      .silent h.ready (Nat.succ_le_of_lt hd) hline ⟨h.ready.running, h.ready.env⟩ (.here _)⟩

theorem line_callRace {e : Bool}
    (h : line l (u.atLine l stack) = .silent (((u.atLine l stack).goto m).enterRace e))
    (hd : stack.length < 3) :
    line l (u.atLine l stack) =
      .silent ({ u with raceEmit := e }.atLine .rc1 (.line m :: stack)) :=
  h.trans (congrArg Line.silent
    (State.enterRace_of_lt ((u.atLine l stack).goto m) e (Nat.succ_lt_succ hd)))

/-- The three lines of a check that passes: the call, `RACE_CHECK`, and the branch on its answer. -/
theorem State.Word.checked {e : Bool} (h : s.Word u i fs bits edges) (hs : s.CleanWord)
    (hj : edges < 2 * s.N) (hd : stack.length < 3)
    (hcall : line l (u.atLine l stack) = .silent (((u.atLine l stack).goto m).enterRace e))
    (hpass : ∀ v : State, v.rt = false →
      line m (v.atLine m stack) = .silent ((v.atLine m stack).goto next)) :
    ∃ v, s.Word v i fs bits edges ∧ (u.atLine l stack).Comes (v.atLine next stack) := by
  have hcalled : s.Word { u with raceEmit := e } i fs bits edges := h.update ..
  obtain ⟨v, hv, hrt, hcomes⟩ := hcalled.rc1_comes (m := m) hs hj hd
  have hdepth := Nat.le_of_lt hd
  exact ⟨v, hv, .silent h.ready hdepth (line_callRace hcall hd) ⟨h.ready.running, h.ready.env⟩
    (hcomes.trans (.goto hv.ready hdepth (hpass v hrt) (.here _)))⟩

/-! ### Sampling a bit (44_word_extraction.md R128, R129) -/

/-- Where the bit of index `k` is sampled, among the clock edges of the word. -/
def State.sampleIndex (s : State) (k : Nat) : Nat :=
  2 * k + (if s.edge = .leading then 0 else 1)

theorem sampleEdges_take (h : bits < s.N) :
    s.sampleEdges.take (bits + 1) =
      s.sampleEdges.take bits ++ [s.wordEdge (s.sampleIndex bits)] := by
  have hlen : bits < s.sampleEdges.length := by simpa [State.sampleEdges] using h
  rw [List.take_succ_eq_append_getElem hlen]
  simp [State.sampleEdges, State.wordEdge, State.sampleIndex]

theorem sentBits_take (a : AccSel) (h : bits < s.N) :
    (s.sentBits a).take (bits + 1) = (s.sentBits a).take bits ++
      [(s.cap.wave.get (accChannel a)).levelAt (s.wordEdge (s.sampleIndex bits))] := by
  rw [State.sentBits, ← List.map_take, sampleEdges_take h, List.map_append, List.map_take]
  rfl

theorem length_sampleEdges_take (h : bits ≤ s.N) : (s.sampleEdges.take bits).length = bits := by
  simpa [State.sampleEdges] using h

theorem State.Word.canSample (h : s.Word u i fs bits edges) (hs : s.CleanWord) (hbits : bits < s.N)
    (hj : 0 < edges) (hjN : edges ≤ 2 * s.N) {a : AccSel}
    (ha : s.present (accChannel a) = true) : u.CanSample u.pos.clk a where
  behind := h.behind a ha
  available := by
    have hlt : edges - 1 < s.clockEdges.length := by have := hs.edges; omega
    have hmem := (mem_clockEdges.mp (wordEdge_mem hlt)).1
    rw [h.clock hj]
    exact (h.complete hs ha).available (c := .clk) (h.cap ▸ hs.capture) (h.cap ▸ hmem)
  missing := by
    have hmissing := (h.sent a ha).missing
    rw [List.length_take, State.sentBits, List.length_map, ← List.length_take,
      length_sampleEdges_take hbits.le] at hmissing
    bv_omega

theorem sampleIndex_lt (h : bits < s.N) : s.sampleIndex bits < 2 * s.N := by
  unfold State.sampleIndex
  split <;> omega

theorem State.Word.atSample (h : s.Word u i fs bits (s.sampleIndex bits + 1)) :
    u.pos.clk = s.wordEdge (s.sampleIndex bits) :=
  h.clock (Nat.succ_pos _)

theorem State.Word.fed_holds (h : s.Word u i fs bits (s.sampleIndex bits + 1)) (hs : s.CleanWord)
    (hbits : bits < s.N) {a : AccSel} (ha : s.present (accChannel a) = true) :
    (u.fed u.pos.clk a).Holds (cfgOrder s.cfgl) s.N ((s.sentBits a).take (bits + 1)) := by
  have hmissing := (h.canSample hs hbits (Nat.succ_pos _) (sampleIndex_lt hbits) ha).missing
  rw [State.fed, if_pos ((h.present _).trans ha), h.cfgl, h.cap, h.N, h.atSample,
    sentBits_take a hbits]
  exact (h.sent a ha).addBit (N_le_of_cfgLegal hs.legal) hmissing _

theorem State.Word.fed_absent (h : s.Word u i fs bits edges) {a : AccSel}
    (ha : s.present (accChannel a) = false) : (u.fed u.pos.clk a).v = 0#64 := by
  rw [State.fed, if_neg (ne_true_of_eq_false ((h.present _).trans ha))]
  exact h.unsent a ha

/-- `SAMPLE_DATA` samples the bit of index `bits` and returns. -/
theorem State.Word.sample_comes (h : s.Word u i fs bits (s.sampleIndex bits + 1))
    (hs : s.CleanWord) (hbits : bits < s.N) (hd : stack.length < 3) :
    ∃ v, s.Word v i fs (bits + 1) (s.sampleIndex bits + 1) ∧
      (u.atLine .sd1 (.line m :: stack)).Comes (v.atLine m stack) := by
  have hmb : u.mb.length < 64 := by
    rw [h.markers, length_sampleEdges_take hbits.le]
    exact hbits.trans_le (N_le_of_cfgLegal hs.legal)
  obtain ⟨op, b, hcomes⟩ := sd1_comes (stack := .line m :: stack) h.ready (Nat.succ_le_of_lt hd)
    hmb fun a ha => h.canSample hs hbits (Nat.succ_pos _) (sampleIndex_lt hbits)
      ((h.present _).symm.trans ha)
  refine ⟨{ u.sampled with op := op, ansBit := b, ansPos := u.pos.clk, ctlp := [] }, ?_, hcomes⟩
  refine ⟨⟨h.ready.running, h.ready.env⟩, h.cfgl, h.cap, h.hz, h.mdir, h.cause, h.sink, h.nr,
    h.enable, h.index, h.start, h.ahead, h.clock, fun a ha => ?_, ?_, fun a ha => ?_,
    fun a ha => ?_⟩
  · have hat : u.sampled.pos.get (accChannel a) = u.pos.clk := by
      cases a <;> exact if_pos ((h.present _).trans ha)
    exact BitVec.le_of_eq hat
  · rw [sampleEdges_take hbits, ← h.atSample, ← h.markers]
    rfl
  · cases a <;> exact h.fed_holds hs hbits ha
  · cases a <;> exact h.fed_absent ha

/-! ### The first edge of the word -/

theorem State.Word.first_step (h : s.Word u 0 fs bits 1) :
    ∃ v, s.Word v 0 (.holding (s.wordEdge 0)) bits 1 ∧
      step (u.atLine .gw8 stack) = .next (v.atLine .gw9 stack) := by
  have hline : line .gw8 (u.atLine .gw8 stack) =
      operate (encode (.pos .clk)) fun t => (t.take .fs).goto .gw9 := if_pos h.index
  refine ⟨{ u with op := 0x10, ansPos := u.pos.clk, fs := .holding u.pos.clk }, ?_,
    h.ready.step_performed hline rfl (exec_pos_running h.ready.running rfl) h.ready.running⟩
  have hfirst : u.pos.clk = s.wordEdge 0 := h.clock Nat.one_pos
  exact ⟨⟨h.ready.running, h.ready.env⟩, h.cfgl, h.cap, h.hz, h.mdir, h.cause, h.sink, h.nr,
    h.enable, h.index, congrArg WorkReg.holding hfirst, h.ahead, h.clock, h.behind, h.markers,
    fun a => by cases a <;> exact h.sent _, fun a => by cases a <;> exact h.unsent _⟩

/-- `FS` after the first edge. -/
theorem State.Word.gw8_comes (h : s.Word u i fs bits (2 * i + 1)) (hi : i < 128)
    (hd : stack.length ≤ 3) (hfs : 0 < i → fs = .holding (s.wordEdge 0)) :
    ∃ v, s.Word v i (.holding (s.wordEdge 0)) bits (2 * i + 1) ∧
      (u.atLine .gw8 stack).Comes (v.atLine .gw9 stack) := by
  rcases i.eq_zero_or_pos with rfl | hpos
  · obtain ⟨v, hv, hstep⟩ := h.first_step (stack := stack)
    exact ⟨v, hv, .step hstep (.here _)⟩
  · have hne : u.i ≠ 0#7 := by
      intro hzero
      have hindex := h.index_toNat hi
      rw [hzero] at hindex
      exact hpos.ne hindex
    exact ⟨u, hfs hpos ▸ h, .goto h.ready hd (if_neg hne) (.here _)⟩

/-! ### The turns of the loop -/

theorem State.Word.loopAt_again (h : s.Word u i fs bits edges) {j : Nat} (hj : j < s.N) :
    (u.atLine l stack).loopAt j = { u with i := BitVec.ofNat 7 j }.atLine .gw5 stack :=
  if_pos (h.N.symm ▸ hj : j < u.N)

theorem State.Word.loopAt_left (h : s.Word u i fs bits edges) {j : Nat} (hj : s.N ≤ j) :
    (u.atLine l stack).loopAt j = { u with k := 0#7 }.atLine .gw18 stack :=
  if_neg (h.N.symm ▸ hj.not_gt : ¬ j < u.N)

/-! ### One bit (44_word_extraction.md R128) -/

/-- How many bits are sampled between the two clock edges of the bit of index `i`. -/
def State.bitsBetween (s : State) (i : Nat) : Nat := if s.edge = .leading then i + 1 else i

/-- The first half: the check, the leading edge, and the sample where the word samples there. -/
theorem State.Word.gw5_comes (h : s.Word u i fs i (2 * i)) (hs : s.CleanWord) (hi : i < s.N)
    (hd : stack.length < 3) (hfs : 0 < i → fs = .holding (s.wordEdge 0)) :
    ∃ v, s.Word v i (.holding (s.wordEdge 0)) (s.bitsBetween i) (2 * i + 1) ∧
      (u.atLine .gw5 stack).Comes (v.atLine .gw10 stack) := by
  have hN := N_le_of_cfgLegal hs.legal
  have hdepth := Nat.le_of_lt hd
  obtain ⟨t, ht, hcheck⟩ := h.checked (l := .gw5) (m := .gw6) (next := .gw7) hs (by omega) hd rfl
    fun v hrt => congrArg Line.silent (if_neg (ne_true_of_eq_false hrt))
  obtain ⟨w, hw, hcross⟩ := ht.cross_step (l := .gw7) (stack := stack) hs (by omega) fun _ => rfl
  obtain ⟨x, hx, hfirst⟩ := hw.gw8_comes (by omega) hdepth hfs
  have hcome := hcheck.trans (.step hcross hfirst)
  unfold State.bitsBetween
  split
  case isTrue hedge =>
    have hindex : s.sampleIndex i = 2 * i := by simp [State.sampleIndex, hedge]
    rw [← hindex] at hx
    obtain ⟨v, hv, hsample⟩ := hx.sample_comes (m := .gw10) hs hi hd
    have hcall := line_call (s := x) (l := .gw9) (f := .gw10) (e := .sd1)
      (congrArg Line.silent (if_pos (hx.edge.trans hedge))) hd
    exact ⟨v, hindex ▸ hv, hcome.trans
      (.silent hx.ready hdepth hcall ⟨hx.ready.running, hx.ready.env⟩ hsample)⟩
  case isFalse hedge =>
    have hskip : x.edge ≠ .leading := hx.edge ▸ hedge
    exact ⟨x, hx, hcome.trans
      (.goto hx.ready hdepth (congrArg Line.silent (if_neg hskip)) (.here _))⟩

/-- After the trailing edge: the sample where the word samples there. -/
theorem State.Word.gw17_comes (h : s.Word u i fs (s.bitsBetween i) (2 * i + 2)) (hs : s.CleanWord)
    (hi : i < s.N) (hd : stack.length < 3) :
    ∃ v, s.Word v i fs (i + 1) (2 * i + 2) ∧
      (u.atLine .gw17 stack).Comes (v.atLine .gw4next stack) := by
  have hdepth := Nat.le_of_lt hd
  cases hedge : s.edge with
  | leading =>
    rw [State.bitsBetween, if_pos hedge] at h
    have hskip : u.edge ≠ .trailing := by rw [h.edge, hedge]; decide
    exact ⟨u, h, .goto h.ready hdepth (congrArg Line.silent (if_neg hskip)) (.here _)⟩
  | trailing =>
    have hindex : s.sampleIndex i + 1 = 2 * i + 2 := by simp [State.sampleIndex, hedge]
    rw [State.bitsBetween, if_neg (by rw [hedge]; decide), ← hindex] at h
    obtain ⟨v, hv, hsample⟩ := h.sample_comes (m := .gw4next) hs hi hd
    have hcall := line_call (s := u) (l := .gw17) (f := .gw4next) (e := .sd1)
      (congrArg Line.silent (if_pos (h.edge.trans hedge))) hd
    exact ⟨v, hindex ▸ hv,
      .silent h.ready hdepth hcall ⟨h.ready.running, h.ready.env⟩ hsample⟩

/-- The last bit of a word sampled at the leading edge: the check that defers the `DISABLE`, and the
trailing edge. -/
theorem State.Word.gw11_comes (h : s.Word u i fs (i + 1) (2 * i + 1)) (hs : s.CleanWord)
    (hi : i + 1 = s.N) (hd : stack.length < 3) :
    ∃ v, s.Word v i fs (i + 1) (2 * i + 2) ∧
      (u.atLine .gw11 stack).Comes ((v.atLine .gw4next stack).loopAt (i + 1)) := by
  obtain ⟨t, ht, hcheck⟩ := h.checked (l := .gw11) (m := .gw12) (next := .gw13) hs (by omega) hd
    rfl fun v hrt => congrArg Line.silent (if_neg (ne_true_of_eq_false hrt))
  obtain ⟨v, hv, hcross⟩ := ht.cross_step (l := .gw13) (stack := stack) hs (by omega) fun _ => rfl
  have hleft := hv.loopAt_left (l := .gw4next) (stack := stack) hi.ge
  exact ⟨v, hv, hcheck.trans (.step hcross (hleft ▸ .here _))⟩

/-- Any other bit: the check, the trailing edge, and the sample where the word samples there. -/
theorem State.Word.gw14_comes (h : s.Word u i fs (s.bitsBetween i) (2 * i + 1)) (hs : s.CleanWord)
    (hi : i < s.N) (hd : stack.length < 3) :
    ∃ v, s.Word v i fs (i + 1) (2 * i + 2) ∧
      (u.atLine .gw14 stack).Comes ((v.atLine .gw4next stack).loopAt (i + 1)) := by
  have hN := N_le_of_cfgLegal hs.legal
  obtain ⟨t, ht, hcheck⟩ := h.checked (l := .gw14) (m := .gw15) (next := .gw16) hs (by omega) hd
    rfl fun v hrt => congrArg Line.silent (if_neg (ne_true_of_eq_false hrt))
  obtain ⟨w, hw, hcross⟩ := ht.cross_step (l := .gw16) (stack := stack) hs (by omega) fun _ => rfl
  obtain ⟨v, hv, hsample⟩ := hw.gw17_comes hs hi hd
  have hnext : line .gw4next (v.atLine .gw4next stack) =
      .silent ((v.atLine .gw4next stack).loopAt (i + 1)) :=
    congrArg (fun n => Line.silent ((v.atLine .gw4next stack).loopAt (n + 1)))
      (hv.index_toNat (by omega))
  refine ⟨v, hv, hcheck.trans (.step hcross (hsample.trans
    (.silent hv.ready (Nat.le_of_lt hd) hnext ?_ (.here _))))⟩
  unfold State.loopAt
  split <;> exact ⟨hv.ready.running, hv.ready.env⟩

/-- The bit of index `i`, up to the loop's next turn. -/
theorem State.Word.bit_comes (h : s.Word u i fs i (2 * i)) (hs : s.CleanWord) (hi : i < s.N)
    (hd : stack.length < 3) (hfs : 0 < i → fs = .holding (s.wordEdge 0)) :
    ∃ v, s.Word v i (.holding (s.wordEdge 0)) (i + 1) (2 * i + 2) ∧
      (u.atLine .gw5 stack).Comes ((v.atLine .gw4next stack).loopAt (i + 1)) := by
  have hN := N_le_of_cfgLegal hs.legal
  obtain ⟨t, ht, hhalf⟩ := h.gw5_comes hs hi hd hfs
  have hgoes : line .gw10 (t.atLine .gw10 stack) = .silent ((t.atLine .gw10 stack).goto
      (if i + 1 = s.N ∧ s.edge = .leading then .gw11 else .gw14)) := by
    rw [← ht.index_toNat (by omega), ← ht.N, ← ht.edge]
    rfl
  have hdepth := Nat.le_of_lt hd
  split at hgoes
  case isTrue hlast =>
    have hbits : s.bitsBetween i = i + 1 := if_pos hlast.2
    rw [hbits] at ht
    obtain ⟨v, hv, hrest⟩ := ht.gw11_comes hs hlast.1 hd
    exact ⟨v, hv, hhalf.trans (.goto ht.ready hdepth hgoes hrest)⟩
  case isFalse =>
    obtain ⟨v, hv, hrest⟩ := ht.gw14_comes hs hi hd
    exact ⟨v, hv, hhalf.trans (.goto ht.ready hdepth hgoes hrest)⟩

/-! ### All bits -/

theorem State.Word.setIndex (h : s.Word u i fs bits edges) (j : Nat) :
    s.Word { u with i := BitVec.ofNat 7 j } j fs bits edges :=
  ⟨⟨h.ready.running, h.ready.env⟩, h.cfgl, h.cap, h.hz, h.mdir, h.cause, h.sink, h.nr, h.enable,
    rfl, h.start, h.ahead, h.clock, h.behind, h.markers, fun a => by cases a <;> exact h.sent _,
    fun a => by cases a <;> exact h.unsent _⟩

theorem State.Word.bits_comes (h : s.Word u i fs i (2 * i)) (hs : s.CleanWord) (hi : i < s.N)
    (hd : stack.length < 3) (hfs : 0 < i → fs = .holding (s.wordEdge 0)) :
    ∃ v j, s.Word v j (.holding (s.wordEdge 0)) s.N (2 * s.N) ∧ v.k = 0#7 ∧
      (u.atLine .gw5 stack).Comes (v.atLine .gw18 stack) := by
  obtain ⟨n, hn⟩ := Nat.exists_eq_add_of_lt hi
  induction n generalizing i u fs with
  | zero =>
    obtain ⟨v, hv, hbit⟩ := h.bit_comes hs hi hd hfs
    have hall : s.N = i + 1 := hn
    rw [hv.loopAt_left hall.le] at hbit
    have hend := hv.update v.cs v.ds v.es v.rs v.rn v.rt v.ctlp v.op v.ansBit v.ansPos 0#7
      v.raceEmit
    rw [hall]
    exact ⟨_, i, hend, rfl, hbit⟩
  | succ n ih =>
    obtain ⟨v, hv, hbit⟩ := h.bit_comes hs hi hd hfs
    rw [hv.loopAt_again (by omega)] at hbit
    obtain ⟨w, j, hw, hk, hrest⟩ := ih (hv.setIndex (i + 1)) (by omega) (fun _ => rfl) (by omega)
    exact ⟨w, j, hw, hk, hbit.trans hrest⟩

/-! ### The markers of the bits (44_word_extraction.md R131) -/

/-- The kind of a marker of direction `d`. -/
def bitMarker (d : BitVec 2) : MarkerKind := if d = 0#2 then .up else .down

theorem emitBitMarkerOp_running {kind : MarkerKind} {code : BitVec 8} (hr : u.runState = .running)
    (hk : u.k.toNat < u.mb.length) :
    emitBitMarkerOp kind code u = .next { u with
      op := code, k := u.k + 1, sink := u.sink ++ [Record.marker u.mb[u.k.toNat] kind] } := by
  rw [emitBitMarkerOp, List.getElem?_eq_getElem hk]
  simp only [State.emit, State.performing_of_running hr]

/-- One marker; the line is performed again. -/
theorem gw18_step (hs : u.Ready) (hdir : u.mdir = 0#2 ∨ u.mdir = 1#2)
    (hk : u.k.toNat < u.mb.length) :
    ∃ op, step (u.atLine .gw18 stack) = .next ({ u with
      op := op, k := u.k + 1
      sink := u.sink ++ [Record.marker u.mb[u.k.toNat] (bitMarker u.mdir)] }.atLine
        .gw18 stack) := by
  have hline : line .gw18 (u.atLine .gw18 stack) =
      operate (opcWord (0xD4#8 ||| u.mdir.setWidth 8)) fun t => t := if_pos hk
  rcases hdir with hdir | hdir
  · have hup : bitMarker u.mdir = .up := if_pos hdir
    rw [hdir] at hline
    rw [hup]
    exact ⟨0xD4, hs.step_performed (i := .emitMarkerUp) hline rfl
      (emitBitMarkerOp_running (u := u.atLine .gw18 stack) hs.running hk) hs.running⟩
  · have hdown : bitMarker u.mdir = .down := if_neg (by rw [hdir]; decide)
    rw [hdir] at hline
    rw [hdown]
    exact ⟨0xD5, hs.step_performed (i := .emitMarkerDown) hline rfl
      (emitBitMarkerOp_running (u := u.atLine .gw18 stack) hs.running hk) hs.running⟩

/-- The markers not yet emitted. -/
theorem gw18_comes (hs : u.Ready) (hd : stack.length ≤ 3) (hdir : u.mdir = 0#2 ∨ u.mdir = 1#2)
    (hmb : u.mb.length ≤ 64) (hk : u.k.toNat ≤ u.mb.length) :
    ∃ op k, (u.atLine .gw18 stack).Comes ({ u with
      op := op, k := k
      sink := u.sink ++ (u.mb.drop u.k.toNat).map (Record.marker · (bitMarker u.mdir)) }.atLine
        .gw19 stack) := by
  obtain ⟨n, hn⟩ := Nat.exists_eq_add_of_le hk
  induction n generalizing u with
  | zero =>
    have hall : u.mb.length ≤ u.k.toNat := hn.le
    have hline : line .gw18 (u.atLine .gw18 stack) =
        .silent ((u.atLine .gw18 stack).goto .gw19) := if_neg hall.not_gt
    refine ⟨u.op, u.k, ?_⟩
    rw [List.drop_eq_nil_of_le hall, List.map_nil, List.append_nil]
    exact .goto hs hd hline (.here _)
  | succ n ih =>
    have hlt : u.k.toNat < u.mb.length := by omega
    have hnext : (u.k + 1).toNat = u.k.toNat + 1 := by
      rw [BitVec.toNat_add]
      exact Nat.mod_eq_of_lt (show u.k.toNat + 1 < 2 ^ 7 by omega)
    obtain ⟨op, hstep⟩ := gw18_step (stack := stack) hs hdir hlt
    obtain ⟨op', k, hrest⟩ := ih (u := { u with
        op := op, k := u.k + 1
        sink := u.sink ++ [Record.marker u.mb[u.k.toNat] (bitMarker u.mdir)] })
      ⟨hs.running, hs.env⟩ hdir hmb (hnext.trans_le hlt)
      (hn.trans (by rw [hnext, Nat.add_assoc, Nat.add_comm 1]))
    have hsink : u.sink ++ (u.mb.drop u.k.toNat).map (Record.marker · (bitMarker u.mdir)) =
        u.sink ++ [Record.marker u.mb[u.k.toNat] (bitMarker u.mdir)] ++
          (u.mb.drop (u.k + 1).toNat).map (Record.marker · (bitMarker u.mdir)) := by
      rw [List.drop_eq_getElem_cons hlt, hnext, List.map_cons, List.append_cons]
    refine ⟨op', k, .step hstep ?_⟩
    rw [hsink]
    exact hrest

/-! ### The result (44_word_extraction.md R133) -/

theorem exec_emitResult_running (hr : u.runState = .running) (hw : u.fs.written = true) :
    exec .emitResult u = .next { u with
      op := 0xD0
      sink := u.sink ++
        [Record.result u.fs.val u.pos.clk u.accDout.v u.accDin.v (cfgN u.cfgl)] } := by
  change emitResultOp _ u = _
  rw [emitResultOp, withReg_written (r := .fs) _ hw, State.emit, State.performing_of_running hr]
  rfl

theorem gw19_step (hs : u.Ready) (hw : u.fs.written = true) :
    step (u.atLine .gw19 stack) = .next ({ u with
      op := 0xD0, ansPos := u.pos.clk
      sink := u.sink ++
        [Record.result u.fs.val u.pos.clk u.accDout.v u.accDin.v (cfgN u.cfgl)] }.atLine
          .gw20 stack) := by
  have hpos := hs.step_operation (stack := stack) (l := .gw19) (i := .pos .clk) rfl rfl
    (exec_pos_running (s := u.atLine .gw19 stack) hs.running rfl) hs.running
  have hemit := exec_emitResult_running (u := { u.atLine .gw19 stack with
    op := 0x10, ansPos := u.pos.clk }) hs.running hw
  exact (hpos.trans (congrArg (proceed · _) hemit)).trans (if_pos hs.running)

/-- What an accumulator holds at the end is what its channel sent. -/
theorem State.Word.acc_v (h : s.Word u i fs s.N edges) (a : AccSel) :
    (u.acc a).v = BitVec.ofNat 64 (s.sentValue a) := by
  unfold State.sentValue
  have hlen : (s.sentBits a).length = s.N := by simp [State.sentBits, State.sampleEdges]
  split
  case isTrue ha =>
    have hholds := h.sent a ha
    rw [List.take_of_length_le hlen.le] at hholds
    change _ = BitVec.ofNat 64 (valueOf _ (s.sentBits a))
    rw [← hholds.toNat_eq_valueOf hlen, BitVec.ofNat_toNat, BitVec.setWidth_eq]
  case isFalse ha => exact h.unsent a (eq_false_of_ne_true ha)

/-! ### The start of the word (44_word_extraction.md R127) -/

theorem exec_accReset_running {a : AccSel} (hr : s.runState = .running) :
    exec (.accReset a) s =
      .next ({ s with op := 0x48#8 + accCode a }.setAcc a ⟨0#64, cfgN s.cfgl⟩) := by
  rw [exec_accReset_eq, accResetOp, State.performing_of_running hr]

/-- What `GW.1` to `GW.3` leave. -/
def State.opened (s : State) : State := { s with
  op := 0x4A, accDout := ⟨0#64, cfgN s.cfgl⟩, accDin := ⟨0#64, cfgN s.cfgl⟩, mb := [], nr := false }

theorem exec_poll_running (hr : s.runState = .running) (hcp : s.cp = false) :
    exec .poll s = .next { s with op := 0x81 } := by
  rw [exec_poll_quiet hcp, hr, RunState.resumed_running, ← hr]

theorem gw1_comes (hs : s.Ready) (hcp : s.cp = false) :
    (s.atLine .gw1 stack).Comes (s.opened.atLine .gw4 stack) := by
  have hpoll := hs.step_performed (stack := stack) (l := .gw1) (i := .poll)
    (f := fun t => t.goto .gw2) rfl rfl
    (exec_poll_running (s := s.atLine .gw1 stack) hs.running hcp) hs.running
  have hdout := State.Ready.step_performed (s := { s with op := 0x81 }) (stack := stack)
    (l := .gw2) (i := .accReset .dout) (f := fun t => t.goto .gw3)
    ⟨hs.running, hs.env⟩ rfl rfl (exec_accReset_running hs.running) hs.running
  have hdin := State.Ready.step_performed (stack := stack)
    (s := { s with op := 0x49, accDout := ⟨0#64, cfgN s.cfgl⟩ })
    (l := .gw3) (i := .accReset .din) (f := fun t => { t with mb := [], nr := false }.goto .gw4)
    ⟨hs.running, hs.env⟩ rfl rfl (exec_accReset_running hs.running) hs.running
  exact .step hpoll (.step hdout (.step hdin (.here _)))

theorem cfgLegal_N_pos (h : cfgLegal s.cfgl = true) : 0 < s.N := by
  simp only [cfgLegal, Bool.and_eq_true, decide_eq_true_eq] at h
  exact h.1.1

theorem State.opened_word (hs : s.Ready)
    (hbehind : ∀ a, s.present (accChannel a) = true → s.pos.get (accChannel a) ≤ s.pos.clk) :
    s.Word { s.opened with i := 0#7 } 0 s.fs 0 0 where
  ready := ⟨hs.running, hs.env⟩
  cfgl := rfl
  cap := rfl
  hz := rfl
  mdir := rfl
  cause := rfl
  sink := rfl
  nr := rfl
  enable := rfl
  index := rfl
  start := rfl
  ahead := rfl
  clock := fun h => absurd h (Nat.lt_irrefl 0)
  behind := hbehind
  markers := rfl
  sent := fun a _ => by cases a <;> exact Accumulator.holds_reset _ _
  unsent := fun a _ => by cases a <;> rfl

/-- The whole word, up to `GW.20`. -/
theorem gw1_reaches (hs : s.Ready) (hclean : s.CleanWord) (hcp : s.cp = false)
    (hbehind : ∀ a, s.present (accChannel a) = true → s.pos.get (accChannel a) ≤ s.pos.clk)
    (hdir : s.mdir = 0#2 ∨ s.mdir = 1#2) (hd : stack.length < 3) :
    ∃ v i, s.Word v i (.holding (s.wordEdge 0)) s.N (2 * s.N) ∧
      (s.atLine .gw1 stack).Reaches ({ v with
        sink := s.sink ++ s.sampleEdges.map (Record.marker · (bitMarker s.mdir))
          ++ [Record.result (s.wordEdge 0) (s.wordEdge (2 * s.N - 1))
            (BitVec.ofNat 64 (s.sentValue .dout)) (BitVec.ofNat 64 (s.sentValue .din))
            (cfgN s.cfgl)] }.atLine .gw20 stack) := by
  have hN := cfgLegal_N_pos hclean.legal
  have hdepth := Nat.le_of_lt hd
  have hword := State.opened_word hs hbehind
  have henter : line .gw4 (s.opened.atLine .gw4 stack) =
      .silent ({ s.opened with i := 0#7 }.atLine .gw5 stack) :=
    congrArg Line.silent (if_pos hN)
  obtain ⟨u, i, hu, hk, hbits⟩ := hword.bits_comes (stack := stack) hclean hN hd
    fun h => absurd h (Nat.lt_irrefl 0)
  have hmb : u.mb = s.sampleEdges := by
    rw [hu.markers]
    exact List.take_of_length_le (by simp [State.sampleEdges])
  obtain ⟨op, k, hmarkers⟩ := gw18_comes (stack := stack) hu.ready hdepth (hu.mdir ▸ hdir)
    (by rw [hu.markers, length_sampleEdges_take le_rfl]; exact N_le_of_cfgLegal hclean.legal)
    (by rw [hk]; exact Nat.zero_le _)
  have hresult := gw19_step (stack := stack) (u := { u with
      op := op, k := k
      sink := u.sink ++ (u.mb.drop u.k.toNat).map (Record.marker · (bitMarker u.mdir)) })
    ⟨hu.ready.running, hu.ready.env⟩ (congrArg WorkReg.written hu.start)
  have hreach := ((gw1_comes (stack := stack) hs hcp).trans (.silent ⟨hs.running, hs.env⟩ hdepth
    henter ⟨hs.running, hs.env⟩ (hbits.trans hmarkers))).reaches (.single hresult)
  have hsink : u.sink ++ (u.mb.drop u.k.toNat).map (Record.marker · (bitMarker u.mdir)) ++
      [Record.result u.fs.val u.pos.clk u.accDout.v u.accDin.v (cfgN u.cfgl)] =
      s.sink ++ s.sampleEdges.map (Record.marker · (bitMarker s.mdir)) ++
        [Record.result (s.wordEdge 0) (s.wordEdge (2 * s.N - 1))
          (BitVec.ofNat 64 (s.sentValue .dout)) (BitVec.ofNat 64 (s.sentValue .din))
          (cfgN s.cfgl)] := by
    rw [hu.sink, hk, hmb, hu.mdir, hu.start, hu.clock (by omega), hu.cfgl, ← hu.acc_v .dout,
      ← hu.acc_v .din]
    rfl
  have hend := hu.update u.cs u.ds u.es u.rs u.rn u.rt u.ctlp 0xD0 u.ansBit u.pos.clk k u.raceEmit
  refine ⟨_, i, hend, ?_⟩
  rw [← hsink]
  exact hreach

/-- Settles O34: each bit crosses its two edges, with no toggle predicted before either, and is
sampled at one of them; `GW.18` and `GW.19` emit what the word has collected. -/
theorem cleanWordDecodes : Obligations.CleanWordDecodes := by
  unfold Obligations.CleanWordDecodes
  intro s hr he hd hcp hlegal hwf hcomplete hbehind hdir hedges _ _ hinside
  have henter : exec .procGetWord s = .next (s.atLine .gw1 s.ctlp) :=
    congrArg _ (s.enter_eq_atLine (hd.trans (by decide)) .gw1)
  obtain ⟨v, i, hv, k, hreach⟩ := gw1_reaches (stack := s.ctlp) ⟨hr, he⟩
    ⟨hlegal, hwf, hcomplete, hedges, hinside⟩ hcp hbehind hdir hd
  have hN : 0 < s.N := cfgLegal_N_pos hlegal
  exact ⟨k + 1, _, _, henter, hreach, rfl, hv.ready.running, hv.nr, hv.clock (by omega), hv.enable,
    hv.cause, rfl⟩

end

end Sys2Proof.Machine
end

section
/-! The emissions: what each appends and all it writes, and the statement of 45_events.md R140 to
R147. -/

namespace Sys2Proof.Machine

open Sys2Proof

section
variable {s : State}

/-! ## An emission appends its record (45_events.md R140 to R145) -/

theorem exec_emitStart_eq (h : s.cs.written = true) :
    exec .emitStart s = .next (s.emit 0xC4 (.start s.cs.val)) :=
  congrArg Host.Outcome.next (withReg_written (r := .cs) _ h)

theorem exec_emitMarkerError_eq (h : s.cs.written = true) :
    exec .emitMarkerError s = .next (s.emit 0xD6 (.marker s.cs.val .error)) :=
  congrArg Host.Outcome.next (withReg_written (r := .cs) _ h)

theorem exec_emitError_eq (he : s.es.written = true) (hc : s.cs.written = true) :
    exec .emitError s = .next (s.emit 0xC8 (.error s.es.val s.cs.val)) :=
  congrArg Host.Outcome.next
    ((withReg_written (r := .es) _ he).trans (withReg_written (r := .cs) _ hc))

theorem exec_emitDisable_eq {d : DisableSel} (h : (s.reg (disableReg d)).written = true) :
    exec (.emitDisable d) s = .next (s.emit 0xCC (.disable (s.reg (disableReg d)).val)) :=
  congrArg Host.Outcome.next (withReg_written _ h)

theorem exec_emitResult_eq (h : s.fs.written = true) :
    exec .emitResult s = .next (s.emit 0xD0
      (.result s.fs.val s.pos.clk s.accDout.v s.accDin.v (cfgN s.cfgl))) :=
  congrArg Host.Outcome.next (withReg_written (r := .fs) _ h)

/-- `GW.18`'s emission of the marker `MB[k]`. -/
theorem emitBitMarkerOp_eq (kind : MarkerKind) (code : BitVec 8) (h : s.k.toNat < s.mb.length) :
    emitBitMarkerOp kind code s =
      .next { s.emit code (.marker s.mb[s.k.toNat] kind) with k := s.k + 1 } := by
  rw [emitBitMarkerOp, List.getElem?_eq_getElem h]

/-- Settles O20: where the registers of its fields are written, each emission is `State.emit` of its
record. -/
theorem eventEmission : Obligations.EventEmission := by
  unfold Obligations.EventEmission
  intro s sent
  exact ⟨exec_emitStart_eq, exec_emitMarkerError_eq, exec_emitError_eq,
    exec_emitDisable_eq (d := .rs), exec_emitDisable_eq (d := .ds), exec_emitResult_eq,
    fun h => ⟨emitBitMarkerOp_eq .up 0xD4 h, emitBitMarkerOp_eq .down 0xD5 h⟩⟩

end

end Sys2Proof.Machine
end

section
/-! What the records to come rest on: the facts that each label of the pseudocode hands on, through
the lines without an operation, to the emission that control next comes to, and the statement of the
emission sites (45_events.md R146). -/

namespace Sys2Proof.Machine

open Sys2Proof

/-! ## What the records to come rest on -/

/-- The word in progress has `n` markers in `MB`; its first edge and the direction of its markers
are known. -/
def State.WordHolds (s : State) (n : Nat) : Prop :=
  s.mb.length = n ∧ s.fs.written = true ∧ s.mdir = markerDirection s.cfgl

/-- The same in an iteration of the bit loop. -/
def State.BitHolds (s : State) (n : Nat) : Prop := s.i.toNat < s.N ∧ s.WordHolds n

/-- What the emission that control next comes to rests on, with control at a label and `caller`
under it. Beside the sites themselves these are the labels from which lines without an operation
lead to `GW.18`. -/
def State.Grounds (s : State) (caller : Option Label) : Label → Prop
  | .rs5 => s.present .en = true
  | .rs8 => s.present .en = false
  | .rc10 => s.rt = true ∧ s.present .en = true ∧
      (∀ m, caller = some m → s.raceEmit = !(m == .gw12)) ∧
      (caller = some .gw12 → s.WordHolds s.N)
  | .gw12 => s.rt = true → s.WordHolds s.N
  | .gw17 => s.edge = .leading → s.BitHolds (s.i.toNat + 1)
  | .gw4next => s.BitHolds (s.i.toNat + 1)
  | .sd2 | .sd3 | .sd4 | .sd5 | .sd6 => caller = some .gw4next → s.BitHolds s.i.toNat
  | .gw18 => s.k.toNat ≤ s.N ∧ s.WordHolds s.N
  | .gw19 => s.WordHolds s.N
  | .gw20 => s.nr = true → s.present .en = true
  | _ => True

/-- That, at the label control is at. -/
def State.GroundsHere (s : State) : Prop :=
  ∀ l stack, s.ctlp = .line l :: stack → s.Grounds (topLabel stack) l

/-- A state whose records to come have what they rest on. -/
structure State.Grounded (s : State) : Prop where
  control : s.InControl
  bits : 1 ≤ s.N ∧ s.N ≤ 64
  here : s.GroundsHere

section
variable {s t u : State} {l m f e : Label} {stack : List Point}

/-! ### A state in good order -/

theorem State.Proper.wordHolds (h : s.Proper) (hl : s.ctlp = .line l :: stack)
    (hset : l ≠ .run1 ∧ l ≠ .su1) {n : Nat} (hn : s.taken = some n) (hm : .line m ∈ s.ctlp)
    (hfirst : needsFirst s.i m = true) : s.WordHolds n := by
  have hr : s.inRun = true := h.sound.running.mpr (by simp [hl])
  refine ⟨h.count n hn, h.first m hm hfirst, h.setup hr ?_ ?_⟩ <;>
    simp [State.top_of_ctlp hl, hset]

theorem State.Proper.bitHolds (h : s.Proper) (hl : s.ctlp = .line l :: stack)
    (hset : l ≠ .run1 ∧ l ≠ .su1) {n : Nat} (hn : s.taken = some n) (hm : .line m ∈ s.ctlp)
    (hfirst : needsFirst s.i m = true) (hloop : inLoop m = true) : s.BitHolds n :=
  ⟨h.index m hm hloop, h.wordHolds hl hset hn hm hfirst⟩

/-- At `GW.12`, and where it is called from, the last bit has been sampled. -/
theorem State.Proper.takenAt_gw12 (h : s.Proper) (hm : .line .gw12 ∈ s.ctlp) :
    s.takenAt .gw12 = some s.N := by
  obtain ⟨hlast, hedge⟩ := h.lastBit (.inr (.inl hm))
  simp [State.takenAt, hedge, hlast]

theorem mem_of_topLabel (h : topLabel stack = some m) : .line m ∈ stack := by
  rcases stack with _ | ⟨k | c, rest⟩ <;> simp_all [topLabel]

theorem State.Proper.grounds (h : s.Proper) (hl : s.ctlp = .line l :: stack) :
    s.Grounds (topLabel stack) l := by
  have htop := State.top_of_ctlp hl
  have hunder : s.under = topLabel stack := by rw [s.under_eq, hl, List.tail_cons]
  have hmem : .line l ∈ s.ctlp := hl ▸ List.mem_cons_self
  have hbelow {m : Label} (hm : topLabel stack = some m) : .line m ∈ s.ctlp :=
    hl ▸ List.mem_cons_of_mem _ (mem_of_topLabel hm)
  have htaken := State.taken_of_top htop
  cases l
  case rs5 => exact h.enable _ hmem rfl
  case rs8 => exact h.noEnable _ hmem (.inr rfl)
  case rc10 =>
    refine ⟨h.toggled htop, h.enable _ hmem rfl,
      fun m hm => h.raceCall _ m htop (hunder.trans hm) rfl, fun hm => ?_⟩
    refine h.wordHolds hl (by decide) (htaken.trans ?_) (hbelow hm) rfl
    rw [hunder, hm]
    exact h.takenAt_gw12 (hbelow hm)
  case gw12 =>
    exact fun _ => h.wordHolds hl (by decide)
      (htaken.trans (h.takenAt_gw12 hmem)) hmem rfl
  case gw17 =>
    exact fun hedge => h.bitHolds hl (by decide)
      (htaken.trans (by simp [labelProc, progressAt, State.noted, hedge])) hmem rfl rfl
  case gw4next => exact h.bitHolds hl (by decide) htaken hmem rfl rfl
  case sd2 | sd3 | sd4 | sd5 | sd6 =>
    exact fun hm => h.bitHolds hl (by decide) htaken (hbelow hm) rfl rfl
  case gw18 => exact ⟨h.emitted htop, h.wordHolds hl (by decide) htaken hmem rfl⟩
  case gw19 => exact h.wordHolds hl (by decide) htaken hmem rfl
  case gw20 => exact fun hnr => (h.deferred hnr).2
  all_goals trivial

theorem State.Proper.grounded (h : s.Proper) : s.Grounded :=
  ⟨h.sound.inControl, h.sound.N_bounds, fun _ _ hl => h.grounds hl⟩

/-! ### Where control goes -/

theorem State.GroundsHere.fault (code : BitVec 8) : (u.internalFault code).GroundsHere := nofun

theorem grounds_withStack (u : State) (ctlp : List Point) (caller : Option Label) (m : Label) :
    ({ u with ctlp := ctlp } : State).Grounds caller m = u.Grounds caller m := by
  cases m <;> rfl

theorem State.GroundsHere.goto (h : u.Grounds (topLabel u.ctlp.tail) m) :
    (u.goto m).GroundsHere := by
  intro k stack hk
  cases hk
  exact (grounds_withStack u _ _ m).mpr h

/-- The first line of a procedure is no site, and its records to come rest on nothing. -/
theorem State.GroundsHere.enter (h : ∀ (v : State) caller, v.Grounds caller e) :
    (u.enter e).GroundsHere := by
  unfold State.enter; split
  · intro k stack hk
    cases hk
    exact h _ _
  · exact .fault _

theorem State.GroundsHere.ret (hok : stackOk u.ctlp = true) (hl : u.ctlp = .line l :: stack)
    (h : ∀ m, topLabel stack = some m → mayReturnTo (placeOf l) m = true →
      ∀ caller, u.Grounds caller m) : u.ret.GroundsHere := by
  intro m rest hm
  rw [State.ret_ctlp, hl, List.tail_cons] at hm
  subst hm
  exact (grounds_withStack u _ _ m).mpr (h m rfl (stackOk_caller (hl ▸ hok)).1 _)

/-- `SETUP` and `GET_WORD` return to lines of `RUN`. -/
theorem grounds_of_return {p : BitVec 5} (u : State) (caller : Option Label) (hp : p = 2 ∨ p = 7)
    (hret : mayReturnTo p m = true) : u.Grounds caller m := by
  have hm : m = .run2 ∨ m = .run4 := by
    rcases hp with rfl | rfl
    · exact .inl (by simpa using mayReturnTo_cases hret)
    · exact .inr (by simpa using mayReturnTo_cases hret)
  rcases hm with rfl | rfl <;> trivial

/-- The markers of a word start at entry 0. -/
theorem State.GroundsHere.toMarkers (h : u.WordHolds u.N) : u.toMarkers.GroundsHere :=
  .goto (u := { u with k := 0#7 }) ⟨Nat.zero_le _, h⟩

/-- The sampled bit is one more marker. -/
theorem State.GroundsHere.noteSample (h : s.Grounded) (hl : s.ctlp = .line .sd6 :: stack) :
    s.noteSample.GroundsHere := by
  unfold State.noteSample; split
  case isFalse => exact .fault _
  case isTrue =>
    refine withReg_ind (.fault _) fun v => ?_
    refine .ret (u := { s with mb := s.mb ++ [v] }) h.control.stack hl fun m hm hret caller => ?_
    rcases sampleCaller hret with rfl | rfl
    · trivial
    · obtain ⟨hi, hcount, hword⟩ := h.here _ _ hl hm
      exact ⟨hi, (List.length_append).trans (congrArg (· + 1) hcount), hword⟩

/-- A line without an operation hands on what the records to come rest on. -/
theorem State.Grounded.silent_here (h : s.Grounded) (hl : s.ctlp = .line l :: stack)
    (ht : line l s = .silent t) : t.GroundsHere := by
  have hhere := h.here l stack hl
  have hok := h.control.stack
  have htail : s.ctlp.tail = stack := by rw [hl, List.tail_cons]
  cases l <;> simp only [line, operate] at ht
  case run1 | run2 | run3 | rs1 | gw5 | gw11 | gw14 => cases ht; exact .enter fun _ _ => trivial
  case run4 => cases ht; exact .goto trivial
  case gw10 => cases ht; exact .goto (by split <;> trivial)
  case su1 =>
    cases ht
    exact .ret (u := { s with mdir := markerDirection s.cfgl }) hok hl fun _ _ hret caller =>
      grounds_of_return _ caller (.inl rfl) hret
  case ae1 | gw8 => split at ht <;> cases ht; exact .goto trivial
  case ae2 =>
    cases ht; unfold State.callNextActive; split
    · exact .enter fun _ _ => trivial
    · exact .goto trivial
  case rc1 =>
    split at ht <;> cases ht
    · exact .goto trivial
    · refine .ret (u := { s with rt := false }) hok hl fun m _ hret _ => ?_
      obtain rfl | rfl | rfl := raceCaller hret
      · trivial
      · exact nofun
      · trivial
  case rc10 =>
    split at ht <;> cases ht
    obtain ⟨-, -, -, hfull⟩ := hhere
    refine .ret hok hl fun m hm hret _ => ?_
    obtain rfl | rfl | rfl := raceCaller hret
    · trivial
    · exact fun _ => hfull hm
    · trivial
  case gw4 =>
    cases ht
    rw [State.loopAt, if_pos (Nat.lt_of_lt_of_le Nat.zero_lt_one h.bits.1)]
    exact .goto trivial
  case gw4next =>
    cases ht
    obtain ⟨hi, hword⟩ := hhere
    unfold State.loopAt; split
    case isTrue => exact .goto trivial
    case isFalse hlast =>
      rw [show s.i.toNat + 1 = s.N by omega] at hword
      exact .toMarkers hword
  case gw6 | gw9 | gw15 =>
    cases ht; split
    · exact .enter fun _ _ => trivial
    · exact .goto trivial
  case gw12 =>
    cases ht; split
    case isTrue hrt =>
      exact withReg_ind (.fault _) fun v =>
        .toMarkers (u := { s with nr := true }.setReg .ds v) (hhere hrt)
    case isFalse => exact .goto trivial
  case gw17 =>
    cases ht; split
    case isTrue => exact .enter fun _ _ => trivial
    case isFalse hedge =>
      exact .goto (hhere (by cases hs : s.edge <;> simp_all))
  case gw18 => split at ht <;> cases ht; exact .goto hhere.2
  case gw20 =>
    split at ht <;> cases ht
    exact .ret hok hl fun _ _ hret caller => grounds_of_return s caller (.inr rfl) hret
  case gwRet =>
    cases ht
    exact .ret hok hl fun _ _ hret caller => grounds_of_return s caller (.inr rfl) hret
  case sd2 | sd3 | sd4 | sd5 => split at ht <;> cases ht; exact .goto (htail ▸ hhere)
  case sd6 => cases ht; exact .noteSample h hl
  all_goals cases ht

theorem State.Grounded.silent (h : s.Grounded) (hl : s.ctlp = .line l :: stack)
    (ht : line l s = .silent t) : t.Grounded where
  control := h.control.silent hl ht
  bits := by rw [State.N, (line_silent_frame ht).cfgl]; exact h.bits
  here := h.silent_here hl ht

theorem State.Grounded.settle (h : s.Grounded) (n : Nat) : (settle n s).Grounded :=
  settle_keeps_atLine (P := State.Grounded) (fun _ _ _ _ hl ht h => h.silent hl ht) n h

end

end Sys2Proof.Machine
end

section
/-! The seven emission sites: the record of each, that a line's operation emits it or nothing, and
the statement of 45_events.md R146. -/

namespace Sys2Proof.Machine

open Sys2Proof

/-! ## The emission sites (45_events.md R146) -/

/-- The record emitted at the line `l`, where it is one of the seven sites. -/
def siteRecord (s : State) : Label → Option Record
  | .rs3 => some (.marker s.cs.val .error)
  | .rs5 => some (.error s.es.val s.cs.val)
  | .rs9 => some (.start s.cs.val)
  | .rc10 => some (.disable s.rs.val)
  | .gw18 => s.mb[s.k.toNat]?.map (.marker · (bitMarker s.mdir))
  | .gw19 => some (.result s.fs.val s.pos.clk s.accDout.v s.accDin.v (cfgN s.cfgl))
  | .gw20 => some (.disable s.ds.val)
  | _ => none

section
variable {s t u : State} {l m : Label} {stack : List Point} {c : Code} {after : State → Out}
  {i : Instr}

/-- The line's first operation emits the line's record; at `GW.19` its second does. -/
theorem recordOf_operationAt (h : operationAt s.mdir l = some i) (hl : l ≠ .gw19) :
    recordOf s i = siteRecord s l := by
  cases l
  case gw18 =>
    cases h
    simp only [siteRecord, bitMarker]
    split <;> rfl
  case gw19 => exact absurd rfl hl
  all_goals cases h <;> rfl

/-- At every line but `GW.19` the rest emits nothing. -/
theorem line_rest_sink (hc : line l s = .operation c after) (hl : l ≠ .gw19)
    (ht : after u = .next t) : t.sink = u.sink := by
  cases l <;> simp only [line, operate] at hc
  case gw19 => exact absurd rfl hl
  case rs3 =>
    cases hc; cases ht; split
    · exact withReg_ind (P := fun v => v.sink = u.sink) rfl fun _ => by simp [State.call]
    · rfl
  case ae1 | rc10 | gw8 | gw18 | sd2 | sd4 => split at hc <;> cases hc; cases ht; simp
  case gw20 => split at hc <;> cases hc; cases ht; simp [State.call]
  case rc6 | rc8 => cases hc; cases ht; split <;> rfl
  case sd3 | sd5 => split at hc <;> cases hc; exact (addLevel_keeps ht).2.2
  case rs2 | rs4 | rs5 | rs6 | rs7 | rs8 | rs9 | ae2n1 | ae2n2 | ae2n3 | ae3 | ae4 | na1 | na2 | na3
    | rc2 | rc3 | rc4 | rc5 | rc7 | rc9 | gw1 | gw2 | gw3 | gw7 | gw13 | gw16 | sd1 =>
    cases hc; cases ht; simp
  case rc1 => split at hc <;> cases hc
  all_goals cases hc

/-- `GW.19` emits `RESULT` and goes to `GW.20`. -/
theorem gw19_rest (hc : line .gw19 s = .operation c after) (hr : u.runState = .running)
    (hw : u.fs.written = true) (ht : after u = .next t) :
    t = State.goto { u with
      op := 0xD0
      sink := u.sink ++
        [.result u.fs.val u.pos.clk u.accDout.v u.accDin.v (cfgN u.cfgl)] } .gw20 := by
  cases hc
  obtain ⟨v, hv, hcase⟩ := proceed_eq_next ht
  cases (exec_emitResult_running hr hw).symm.trans hv
  obtain ⟨-, hgoto⟩ | ⟨hstop, -⟩ := hcase
  · cases hgoto; rfl
  · exact absurd hr hstop

/-- A line's operation and the rest of the line: the operation stops and nothing is emitted, or it
is performed and the line's record, if it has one, goes to the sink. -/
theorem State.Grounded.operation (h : s.Grounded) (hl : s.ctlp = .line l :: stack)
    (hc : line l s = .operation c after) (ht : proceed (execCode c s) after = .next t) :
    ∃ i, operationAt s.mdir l = some i ∧
      ((exec i s = .next t ∧ s.Stopped t ∧ t.sink = s.sink) ∨
        ∃ u, s.Performed (writes i) u ∧ exec i s = .next u ∧ u.runState = .running ∧
          after u = .next t ∧ t.sink = s.sink ++ (siteRecord s l).toList) := by
  have hr : s.inRun = true := h.control.running.mpr (by simp [hl])
  obtain ⟨i, hop, -, ⟨hexec, hstop⟩ | ⟨u, hu, hperf, hrun, hafter⟩⟩ :=
    operation_cases h.control hl hc ht
  case inl =>
    refine ⟨i, hop, .inl ⟨hexec, hstop, ?_⟩⟩
    exact ((exec_emitted (operationAt_isOperation hop) hr hexec).resolve_right
      fun hgoes => hstop.not_running hgoes.1).2
  case inr =>
    refine ⟨i, hop, .inr ⟨u, hperf, hu, hrun, hafter, ?_⟩⟩
    have hsink := ((exec_emitted (operationAt_isOperation hop) hr hu).resolve_left
      fun hstop => hstop.1 hrun).2
    by_cases hresult : l = .gw19
    case neg => rw [line_rest_sink hc hresult hafter, hsink, recordOf_operationAt hop hresult]
    case pos =>
      subst hresult
      cases hop
      obtain ⟨-, hfirst, -⟩ := h.here _ _ hl
      have hfs : u.fs = s.fs := hperf.same.fields (.reg .fs) (by decide)
      have hclk : u.pos.clk = s.pos.clk := hperf.same.fields (.pos .clk) (by decide)
      have hdout : u.accDout = s.accDout := hperf.same.fields (.acc .dout) (by decide)
      have hdin : u.accDin = s.accDin := hperf.same.fields (.acc .din) (by decide)
      rw [gw19_rest hc hrun (hfs ▸ hfirst) hafter, State.goto_sink, hsink, hfs, hclk, hdout, hdin,
        hperf.same.cfgl]
      simp [recordOf, siteRecord]

/-! ## A step -/

/-- Lines without an operation ask for no other level of the clock. -/
theorem State.ClockPhase.settle (h : s.ClockPhase) (hin : s.InControl) (hfresh : s.Fresh)
    (n : Nat) : (settle n s).ClockPhase := by
  refine (settle_keeps_atLine (P := fun s => s.ClockPhase ∧ s.InControl ∧ s.Fresh)
    (fun l stack s t hl ht ⟨h, hin, hfresh⟩ => ?_) n ⟨h, hin, hfresh⟩).1
  have hkeeps := State.FreshAt.silent ⟨hfresh, hin.stack, hl⟩ ht
  have hf := line_silent_frame ht
  refine ⟨h.of_asks ?_ hf.cfgl hkeeps.asks, hin.silent hl ht, hkeeps.fresh⟩
  rw [State.levelOf, hf.cap, hf.pos, State.levelOf]

/-- A step emits at most the record of the line control has come to, whose operation it performs. -/
theorem State.Grounded.pointStep_record (h : s.Grounded) (ht : pointStep s = .next t) :
    t.sink = s.sink ∨ ∃ r l stack c after, t.sink = s.sink ++ [r] ∧ s.ctlp = .line l :: stack ∧
      line l s = .operation c after ∧ siteRecord s l = some r := by
  rcases pointStep_cases h.control ht with ⟨-, rfl⟩ | ⟨l, stack, c, after, hl, hc, ht⟩
  · exact .inl rfl
  · obtain ⟨-, -, ⟨-, -, hsink⟩ | ⟨-, -, -, -, -, hsink⟩⟩ := h.operation hl hc ht
    · exact .inl hsink
    · cases hsite : siteRecord s l with
      | none => exact .inl (by simpa [hsite] using hsink)
      | some r => exact .inr ⟨r, l, stack, c, after, by simpa [hsite] using hsink, hl, hc, hsite⟩

/-- Settles O56: what the record rests on (`State.Grounds`) is handed on to the line control comes
to, and the line's branch and the clock's phase give the rest of each site's condition. -/
theorem emissionSites : Obligations.EmissionSites := by
  unfold Obligations.EmissionSites
  intro s t hproper hr ht u
  have hu : u.Grounded := hproper.grounded.settle settleFuel
  have hphase (hs : s.ClockPhase) : u.ClockPhase :=
    hs.settle hproper.sound.inControl hproper.isFresh settleFuel
  have hsink : u.sink = s.sink := (settle_frame settleFuel s).sink
  have hstep : pointStep u = .next t := (if_pos hr).symm.trans ht
  clear_value u
  rw [← hsink]
  refine (hu.pointStep_record hstep).imp_right fun ⟨r, l, stack, c, after, hr, hl, hc, hsite⟩ => ?_
  refine ⟨r, hr, ?_⟩
  have htop := State.top_of_ctlp hl
  have hgrounds := hu.here l stack hl
  cases l <;> simp only [siteRecord, Option.some.injEq, reduceCtorEq] at hsite
  case rs3 =>
    refine .inl ⟨htop, fun hs hidle => ?_, hsite.symm⟩
    have haway := hphase hs false (by simp [State.clockIdle, htop])
    exact absurd (beq_iff_eq.mpr hidle) (Bool.eq_false_iff.mp haway)
  case rs5 => exact .inr (.inl ⟨htop, hgrounds, hsite.symm⟩)
  case rs9 =>
    refine .inr (.inr (.inl ⟨htop, fun hs => ?_, hsite.symm⟩))
    exact beq_iff_eq.mp (hphase hs true (by simp [State.clockIdle, htop]))
  case rc10 =>
    simp only [line] at hc
    split at hc
    case isTrue hemit => exact .inr (.inr (.inr (.inl ⟨htop, hgrounds.1, hemit, hsite.symm⟩)))
    case isFalse => cases hc
  case gw18 =>
    obtain ⟨k, hk, rfl⟩ := Option.map_eq_some_iff.mp hsite
    exact .inr (.inr (.inr (.inr (.inl ⟨k, htop, hgrounds.2.1, hk, rfl⟩))))
  case gw19 => exact .inr (.inr (.inr (.inr (.inr (.inl ⟨htop, hgrounds.1, hsite.symm⟩)))))
  case gw20 =>
    simp only [line] at hc
    split at hc
    case isTrue hnr => exact .inr (.inr (.inr (.inr (.inr (.inr ⟨htop, hnr, hsite.symm⟩)))))
    case isFalse => cases hc

end

end Sys2Proof.Machine
end

section
/-! The grammar of the record stream: where the stream stands at each label, that lines without an
operation leave it there, what each emission adds, and the statement of 45_events.md R148. -/

namespace Sys2Proof.Machine

open Sys2Proof

/-! ## Where the stream stands at a label (45_events.md R148) -/

/-- What tells where the stream stands when control is at a label. -/
inductive PhasePlace where
  /-- the label alone -/
  | only (p : Phase)
  /-- at `RS.9`: a boundary, or past the error marker of a run without the enable channel -/
  | start
  /-- the caller of `NEXT_ACTIVE_EDGE` -/
  | search
  /-- the verdict `RT` of the `RACE_CHECK` that has returned -/
  | verdict
  /-- the markers emitted so far -/
  | markers
  /-- all `N` markers are emitted -/
  | result
  deriving DecidableEq

/-- The place of each label, as `State.phaseOk` has it (`phaseOk_iff`). -/
def phasePlace : Label → PhasePlace
  | .run1 | .run2 | .su1 | .rs1 | .rs2 | .rs3 | .rs6 | .ae1 | .ae2 | .ae2n1 | .ae2n2 | .ae2n3
  | .ae3 | .ae4 => .only .boundary
  | .rs4 | .rs5 => .only .errorSpan
  | .rs7 | .rs8 => .only .lateStart
  | .rs9 => .start
  | .na1 | .na2 | .na3 => .search
  | .gw6 | .gw15 => .verdict
  | .gw18 => .markers
  | .gw19 => .result
  | _ => .only .transaction

/-- The stream stands at `p` where control is at that place. -/
def State.Stands (s : State) (p : Phase) : PhasePlace → Prop
  | .only q => p = q
  | .start => p = .boundary ∨ (p = .lateStart ∧ s.present .en = false)
  | .search => p = if s.under = some .rs4 then .errorSpan else .boundary
  | .verdict => p = if s.rt then .boundary else .transaction
  | .markers => p = if s.k = 0#7 then .transaction else .word s.k.toNat
  | .result => p = .word s.N

/-- The stream stands at `p` where control is, or the run has ended and `p` is not inside a word. -/
def State.Admits (t : State) (p : Phase) : Prop :=
  (t.inRun = true → t.phaseOk p = true) ∧ (t.inRun = false → ∀ j, p ≠ .word j)

/-- Control is at the line `l` of a run, and the stream stands at `p`. -/
structure State.StreamAt (s : State) (p : Phase) (l : Label) (stack : List Point) : Prop where
  grounded : s.Grounded
  run : s.inRun = true
  ctlp : s.ctlp = .line l :: stack
  stands : s.Stands p (phasePlace l)

/-- The stream stands at `m` as it does at `l`, whatever else becomes of the state. -/
def keepsPlace (l m : Label) : Bool :=
  match phasePlace l with
  | .only q => phasePlace m == .only q || (q == .boundary && phasePlace m == .start)
  | _ => false

/-- The same of every label that the procedure of `l` may return to. -/
def returnsKeep (l : Label) : Bool :=
  placeOf l != 1 && returnLabels.all fun m => !mayReturnTo (placeOf l) m || keepsPlace l m

section
variable {s t u : State} {p q : Phase} {l m f e : Label} {stack : List Point} {place : PhasePlace}

theorem phaseOk_iff (htop : s.top = some l) :
    s.phaseOk p = true ↔ s.Stands p (phasePlace l) := by
  rw [State.phaseOk, htop]
  cases l <;> simp [phasePlace, State.Stands]

theorem State.Stands.congr (h : s.Stands p place) (hctlp : t.ctlp = s.ctlp)
    (hcfgl : t.cfgl = s.cfgl) (hrt : t.rt = s.rt) (hk : t.k = s.k) : t.Stands p place := by
  have hunder : t.under = s.under := by rw [State.under_eq, State.under_eq, hctlp]
  cases place <;>
    simpa only [State.Stands, State.present, State.N, hunder, hcfgl, hrt, hk] using h

/-- Only the emissions of a word's markers and of its result stand inside a word. -/
theorem State.Stands.not_word (h : s.Stands p (phasePlace l)) (hl : l ≠ .gw18 ∧ l ≠ .gw19)
    (j : Nat) : p ≠ .word j := by
  rintro rfl
  obtain ⟨hmarkers, hresult⟩ := hl
  cases l
  case gw18 => exact hmarkers rfl
  case gw19 => exact hresult rfl
  case rs9 => rcases h with h | ⟨h, -⟩ <;> cases h
  case na1 | na2 | na3 | gw6 | gw15 =>
    simp only [State.Stands, phasePlace] at h
    split at h <;> cases h
  all_goals cases h

/-! ### Where control goes -/

theorem State.Stands.admits (h : t.Stands p (phasePlace l)) (htop : t.top = some l)
    (hr : t.inRun = true) : t.Admits p :=
  ⟨fun _ => (phaseOk_iff htop).mpr h, fun hno => absurd hr (by simp [hno])⟩

theorem State.Admits.fault (hp : ∀ j, p ≠ .word j) (code : BitVec 8) :
    (u.internalFault code).Admits p := ⟨nofun, fun _ => hp⟩

theorem State.Stands.goto (h : u.Stands p place) : (u.goto m).Stands p place := by
  have hunder : (u.goto m).under = u.under := by rw [State.under_eq, State.under_eq]; rfl
  cases place
  case search => exact (congrArg (fun c => p = if c = some Label.rs4 then _ else _) hunder).mpr h
  all_goals exact h

theorem State.Admits.goto (hr : u.inRun = true) (h : u.Stands p (phasePlace m)) :
    (u.goto m).Admits p :=
  h.goto.admits rfl hr

theorem State.Admits.call (hr : u.inRun = true) (hp : ∀ j, p ≠ .word j)
    (h : (u.pushed f e u.ctlp.tail).Stands p (phasePlace e)) : (u.call f e).Admits p := by
  unfold State.call State.enter; split
  · exact h.admits rfl hr
  · exact .fault hp _

theorem State.Admits.ret (hok : stackOk u.ctlp = true) (hl : u.ctlp = .line l :: stack)
    (hp : placeOf l ≠ 1) (hr : u.inRun = true)
    (h : ∀ m, topLabel stack = some m → mayReturnTo (placeOf l) m = true →
      u.ret.Stands p (phasePlace m)) : u.ret.Admits p := by
  obtain ⟨m, rest, rfl, hm⟩ := stackOk_callerOf (hl ▸ hok) hp
  exact (h m rfl hm).admits (by simp [State.top, hl]) hr

theorem State.StreamAt.not_word (h : s.StreamAt p l stack) (hl : l ≠ .gw18 ∧ l ≠ .gw19) (j : Nat) :
    p ≠ .word j := h.stands.not_word hl j

theorem State.StreamAt.keeps (h : s.StreamAt p l stack) (hm : keepsPlace l m = true) (u : State) :
    u.Stands p (phasePlace m) := by
  have hstands := h.stands
  cases hl : phasePlace l with
  | only q =>
    rw [hl] at hstands
    cases hstands
    simp only [keepsPlace, hl, Bool.or_eq_true, Bool.and_eq_true, beq_iff_eq] at hm
    rcases hm with hm | ⟨rfl, hm⟩ <;> rw [hm]
    · rfl
    · exact .inl rfl
  | _ => simp [keepsPlace, hl] at hm

theorem not_word_of_keeps (hm : keepsPlace l m = true) : l ≠ .gw18 ∧ l ≠ .gw19 := by
  constructor <;> rintro rfl <;> cases hm

theorem State.StreamAt.goto (h : s.StreamAt p l stack) (hr : u.inRun = true)
    (hm : keepsPlace l m = true) : (u.goto m).Admits p :=
  .goto hr (h.keeps hm u)

theorem State.StreamAt.call (h : s.StreamAt p l stack) (hr : u.inRun = true)
    (he : keepsPlace l e = true) : (u.call f e).Admits p :=
  .call hr (h.not_word (not_word_of_keeps he)) (h.keeps he _)

theorem State.StreamAt.ret (h : s.StreamAt p l stack) (hu : u.ctlp = s.ctlp) (hr : u.inRun = true)
    (hl : returnsKeep l = true) : u.ret.Admits p := by
  simp only [returnsKeep, Bool.and_eq_true, bne_iff_ne, List.all_eq_true, Bool.or_eq_true,
    Bool.not_eq_true'] at hl
  obtain ⟨hp, hkeep⟩ := hl
  refine .ret (hu ▸ h.grounded.control.stack) (hu.trans h.ctlp) hp hr fun m _ hm => ?_
  exact h.keeps ((hkeep m (mem_returnLabels hm)).resolve_left (by simp [hm])) _

/-- `RACE_CHECK` returns with its answer "no toggle". -/
theorem State.StreamAt.noToggle (h : s.StreamAt p l stack) (hl : placeOf l = 6)
    (hp : p = .transaction) (hu : u.ctlp = s.ctlp) (hr : u.inRun = true) (hrt : u.rt = false) :
    u.ret.Admits p := by
  refine .ret (hu ▸ h.grounded.control.stack) (hu.trans h.ctlp) (by rw [hl]; decide) hr
    fun m _ hm => ?_
  obtain rfl | rfl | rfl := raceCaller (hl ▸ hm)
  · simp [State.Stands, phasePlace, hrt, hp]
  · exact hp
  · simp [State.Stands, phasePlace, hrt, hp]

/-- Before the first marker of a word the stream stands in the transaction. -/
theorem State.StreamAt.toMarkers (h : s.StreamAt p l stack) (hl : phasePlace l = .only .transaction)
    (hr : u.inRun = true) : u.toMarkers.Admits p := by
  have hp := h.stands
  rw [hl] at hp
  exact .goto (u := { u with k := 0#7 }) hr hp

theorem State.StreamAt.loopAt (h : s.StreamAt p l stack) (hl : l = .gw4 ∨ l = .gw4next) (i : Nat) :
    (s.loopAt i).Admits p := by
  have hplace : phasePlace l = .only .transaction ∧ keepsPlace l .gw5 = true := by
    rcases hl with rfl | rfl <;> exact ⟨rfl, rfl⟩
  unfold State.loopAt; split
  · exact h.goto (u := { s with i := BitVec.ofNat 7 i }) h.run hplace.2
  · exact h.toMarkers hplace.1 h.run

/-- A line without an operation leaves the stream where it stands. -/
theorem State.StreamAt.silent (h : s.StreamAt p l stack) (ht : line l s = .silent t) :
    t.Admits p := by
  have hgrounds := h.grounded.here l stack h.ctlp
  have hstands := h.stands
  cases l <;> simp only [line, operate] at ht
  case run1 | run2 | run3 | rs1 => cases ht; exact h.call h.run rfl
  case run4 => cases ht; exact h.goto h.run rfl
  case gw10 => cases ht; exact h.goto h.run (by split <;> rfl)
  case su1 =>
    cases ht
    exact h.ret (u := { s with mdir := markerDirection s.cfgl }) rfl h.run rfl
  case gwRet => cases ht; exact h.ret rfl h.run rfl
  case ae1 | gw8 | sd2 | sd3 | sd4 | sd5 => split at ht <;> cases ht; exact h.goto h.run rfl
  case ae2 =>
    cases ht; unfold State.callNextActive; split
    · exact .call h.run (h.not_word (by decide)) hstands
    · exact h.goto h.run rfl
  case rc1 =>
    split at ht <;> cases ht
    · exact h.goto h.run rfl
    · exact h.noToggle (u := { s with rt := false }) rfl hstands rfl h.run rfl
  case rc10 =>
    split at ht <;> cases ht
    case isFalse hemit =>
      obtain ⟨-, -, hcall, -⟩ := hgrounds
      refine .ret h.grounded.control.stack h.ctlp (by decide) h.run fun m hm hret => ?_
      have hcaller := hcall m hm
      obtain rfl | rfl | rfl := raceCaller hret
      · exact absurd hcaller hemit
      · exact hstands
      · exact absurd hcaller hemit
  case gw4 => cases ht; exact h.loopAt (.inl rfl) _
  case gw4next => cases ht; exact h.loopAt (.inr rfl) _
  case gw5 => cases ht; exact h.call (f := .gw6) (u := { s with raceEmit := true }) h.run rfl
  case gw11 => cases ht; exact h.call (f := .gw12) (u := { s with raceEmit := false }) h.run rfl
  case gw14 => cases ht; exact h.call (f := .gw15) (u := { s with raceEmit := true }) h.run rfl
  case gw6 | gw15 =>
    cases ht; split
    case isTrue hrt =>
      exact .call (u := s.record _) h.run (h.not_word (by decide)) (hstands.trans (if_pos hrt))
    case isFalse hrt => exact .goto h.run (hstands.trans (if_neg hrt))
  case gw9 | gw17 =>
    cases ht; split
    · exact h.call h.run rfl
    · exact h.goto h.run rfl
  case gw12 =>
    cases ht; split
    · exact withReg_ind (P := fun u => u.Admits p) (.fault (h.not_word (by decide)) _) fun v =>
        h.toMarkers (u := { s with nr := true }.setReg .ds v) rfl h.run
    · exact h.goto h.run rfl
  case gw18 =>
    split at ht <;> cases ht
    case isFalse hlast =>
      obtain ⟨hle, hcount, -⟩ := hgrounds
      have hbits := h.grounded.bits
      have hall : s.k.toNat = s.N := by omega
      have hk : s.k ≠ 0#7 := by rintro hk; simp [hk] at hall; omega
      exact .goto h.run (by simpa [State.Stands, phasePlace, hk, hall] using hstands)
  case gw20 => split at ht <;> cases ht; exact h.ret rfl h.run rfl
  case sd6 =>
    cases ht; unfold State.noteSample; split
    · exact withReg_ind (P := fun u => u.Admits p) (.fault (h.not_word (by decide)) _) fun v =>
        h.ret (u := { s with mb := s.mb ++ [v] }) rfl h.run rfl
    · exact .fault (h.not_word (by decide)) _
  all_goals cases ht

theorem State.Grounded.streamAt (h : s.Grounded) (hp : s.Admits p)
    (hl : s.ctlp = .line l :: stack) : s.StreamAt p l stack := by
  have hr : s.inRun = true := h.control.running.mpr (by simp [hl])
  exact ⟨h, hr, hl, (phaseOk_iff (State.top_of_ctlp hl)).mp (hp.1 hr)⟩

theorem settle_admits (h : s.Grounded) (hp : s.Admits p) (n : Nat) :
    (settle n s).Grounded ∧ (settle n s).Admits p :=
  settle_keeps_atLine (P := fun s => s.Grounded ∧ s.Admits p)
    (fun _ _ _ _ hl ht ⟨h, hp⟩ => ⟨h.silent hl ht, (h.streamAt hp hl).silent ht⟩) n ⟨h, hp⟩

end

end Sys2Proof.Machine
end

section
/-! The grammar of the record stream at the lines with an operation: what each emission is to the
grammar, and the statement of 45_events.md R148. -/

namespace Sys2Proof.Machine

open Sys2Proof

/-- After `rs` the stream that stood at `p` stands where control is in `t`. -/
def State.Streams (s : State) (p : Phase) (rs : List Record) (t : State) : Prop :=
  ∃ q, p.run (s.present .en) s.N s.dirKind rs = some q ∧ t.Admits q

/-- The lines that emit (45_events.md R146). -/
def emissionLabels : List Label := [.rs3, .rs5, .rs9, .rc10, .gw18, .gw19, .gw20]

section
variable {s t u : State} {p : Phase} {l : Label} {stack : List Point} {c : Code}
  {after : State → Out} {i : Instr}

/-! ### A line that emits nothing -/

/-- A second operation and the `goto` after it. -/
theorem State.StreamAt.addLevel {a : AccSel} {m : Label} (h : s.StreamAt p l stack)
    (hr : u.runState = .running) (hm : keepsPlace l m = true)
    (ht : addLevel a m u = .next t) : t.Admits p := by
  obtain ⟨v, hv, hcase⟩ := proceed_eq_next ht
  rcases exec_second (isSecond_accAddBit a _) hv with ⟨b, rfl⟩ | hperf
  · obtain ⟨hrun, -⟩ | ⟨-, rfl⟩ := hcase
    · cases hrun
    · exact .fault (h.not_word (not_word_of_keeps hm)) b
  · have hrun := hperf.running (inRun_of_running hr)
    obtain ⟨-, hgoto⟩ | ⟨hstop, -⟩ := hcase
    · cases hgoto; exact h.goto (inRun_of_running hrun) hm
    · exact absurd hrun hstop

/-- A line that emits nothing leaves the stream where it stands. -/
theorem State.StreamAt.quiet (h : s.StreamAt p l stack) (hl : l ∉ emissionLabels)
    (hc : line l s = .operation c after) (hu : u.ctlp = s.ctlp) (hcfgl : u.cfgl = s.cfgl)
    (hrun : u.runState = .running) (ht : after u = .next t) : t.Admits p := by
  have hr := inRun_of_running hrun
  have hok : stackOk u.ctlp = true := hu ▸ h.grounded.control.stack
  have hgrounds := h.grounded.here l stack h.ctlp
  have hstands := h.stands
  have hunder : u.under = s.under := by rw [State.under_eq, State.under_eq, hu]
  have hpresent : u.present .en = s.present .en := by rw [State.present, hcfgl, State.present]
  cases l <;> simp only [line, operate] at hc
  case rs3 | rs5 | rs9 | rc10 | gw18 | gw19 | gw20 => exact absurd hl (by decide)
  case rs2 => cases hc; cases ht; exact h.goto hr (by split <;> rfl)
  case rs4 | rs6 | rs7 | ae2n2 | ae2n3 | ae3 | rc5 | rc7 | gw1 | gw2 | gw7 | gw16 | sd1 =>
    cases hc; cases ht; exact h.goto hr rfl
  case ae2n1 | rc2 | rc3 | rc4 => cases hc; cases ht; exact h.goto hr (by split <;> rfl)
  case rs8 =>
    cases hc; cases ht
    exact .goto (u := u.take .cs) hr (.inr ⟨hstands, hpresent.trans hgrounds⟩)
  case ae1 =>
    split at hc <;> cases hc; cases ht
    exact h.ret (u := u.take .cs) hu hr rfl
  case ae4 => cases hc; cases ht; exact h.ret hu hr rfl
  case na1 =>
    cases hc; cases ht
    rw [phasePlace, State.Stands, ← hunder] at hstands
    exact .goto hr (by split <;> exact hstands)
  case na2 =>
    cases hc; cases ht
    rw [phasePlace, State.Stands, ← hunder] at hstands
    exact .goto hr hstands
  case na3 =>
    cases hc; cases ht
    refine .ret hok (hu.trans h.ctlp) (by decide) hr fun m hm hret => ?_
    rw [phasePlace, State.Stands, s.under_eq, h.ctlp, List.tail_cons, hm] at hstands
    obtain rfl | rfl := (show m = .rs4 ∨ m = .ae3 by
      simpa [placeOf, labelProc] using mayReturnTo_cases hret)
    · exact hstands
    · exact hstands
  case rc6 =>
    cases hc; cases ht; split
    · exact h.goto hr rfl
    · exact h.goto (u := { u with rt := true }) hr rfl
  case rc8 =>
    cases hc; cases ht; split
    · exact h.goto hr rfl
    · exact h.noToggle (u := { u with rt := false }) rfl hstands hu hr rfl
  case rc9 => cases hc; cases ht; exact h.goto (u := { u.take .rs with rt := true }) hr rfl
  case gw3 => cases hc; cases ht; exact h.goto (u := { u with mb := [], nr := false }) hr rfl
  case gw13 => cases hc; cases ht; exact h.toMarkers rfl hr
  case gw8 => split at hc <;> cases hc; cases ht; exact h.goto (u := u.take .fs) hr rfl
  case sd2 | sd4 => split at hc <;> cases hc; cases ht; exact h.goto hr rfl
  case sd3 | sd5 => split at hc <;> cases hc; exact h.addLevel hrun rfl ht
  case rc1 => split at hc <;> cases hc
  all_goals cases hc

/-! ### The emissions -/

theorem rs3_streams (h : s.StreamAt p .rs3 stack) (hc : line .rs3 s = .operation c after)
    (hcfgl : u.cfgl = s.cfgl) (hrun : u.runState = .running) (ht : after u = .next t) :
    s.Streams p [.marker s.cs.val .error] t := by
  have hr := inRun_of_running hrun
  have hpresent : u.present .en = s.present .en := by rw [State.present, hcfgl, State.present]
  cases show p = .boundary from h.stands
  cases hc; cases ht; dsimp only; split
  case isTrue he =>
    refine ⟨.errorSpan, ?_, ?_⟩
    · simp [Phase.run, Phase.accept, show s.present .en = true from hpresent ▸ he]
    · have hword : ∀ j, Phase.errorSpan ≠ .word j := fun _ => nofun
      exact withReg_ind (P := fun v => v.Admits .errorSpan) (.fault hword _) fun _ =>
        .call hr hword (if_pos rfl).symm
  case isFalse he =>
    refine ⟨.lateStart, ?_, .goto (u := u.record _) hr rfl⟩
    simp [Phase.run, Phase.accept, show ¬ s.present .en = true from hpresent ▸ he]

theorem rs5_streams (h : s.StreamAt p .rs5 stack) (hc : line .rs5 s = .operation c after)
    (hrun : u.runState = .running) (ht : after u = .next t) :
    s.Streams p [.error s.es.val s.cs.val] t := by
  cases show p = .errorSpan from h.stands
  cases hc; cases ht
  exact ⟨.boundary, rfl, .goto (inRun_of_running hrun) rfl⟩

theorem rs9_streams (h : s.StreamAt p .rs9 stack) (hc : line .rs9 s = .operation c after)
    (hu : u.ctlp = s.ctlp) (hrun : u.runState = .running) (ht : after u = .next t) :
    s.Streams p [.start s.cs.val] t := by
  cases hc; cases ht
  refine ⟨.transaction, ?_, .ret (hu ▸ h.grounded.control.stack) (hu.trans h.ctlp) (by decide)
    (inRun_of_running hrun) fun m _ hret => ?_⟩
  · rcases h.stands with rfl | ⟨rfl, -⟩ <;> rfl
  · obtain rfl | rfl | rfl := (show m = .run3 ∨ m = .run4 ∨ m = .gwRet by
      simpa [placeOf, labelProc] using mayReturnTo_cases hret) <;> rfl

theorem rc10_streams (h : s.StreamAt p .rc10 stack) (hc : line .rc10 s = .operation c after)
    (hu : u.ctlp = s.ctlp) (hrt : u.rt = s.rt) (hrun : u.runState = .running)
    (ht : after u = .next t) : s.Streams p [.disable s.rs.val] t := by
  obtain ⟨htoggled, henable, hcall, -⟩ := h.grounded.here _ _ h.ctlp
  have hstands := h.stands
  simp only [line] at hc
  split at hc <;> cases hc; cases ht
  case isTrue hemit =>
    cases show p = .transaction from hstands
    refine ⟨.boundary, by simp [Phase.run, Phase.accept, henable],
      .ret (hu ▸ h.grounded.control.stack) (hu.trans h.ctlp) (by decide)
        (inRun_of_running hrun) fun m hm hret => ?_⟩
    have hverdict : u.ret.Stands .boundary .verdict := (if_pos (hrt.trans htoggled)).symm
    obtain rfl | rfl | rfl := raceCaller hret
    · exact hverdict
    · cases hemit.symm.trans (hcall _ hm)
    · exact hverdict

/-- The operation of `GW.18` is the emission of `MB[k]` in either direction. -/
theorem exec_gw18_operation (hop : operationAt s.mdir .gw18 = some i) :
    ∃ kind code, exec i s = emitBitMarkerOp kind code s := by
  cases hop
  split
  · exact ⟨_, _, rfl⟩
  · exact ⟨_, _, rfl⟩

/-- `GW.18` emits the next marker of the word, in the run's direction. -/
theorem gw18_streams (h : s.StreamAt p .gw18 stack) (hc : line .gw18 s = .operation c after)
    (hu : u.ctlp = s.ctlp) (hk : u.k = s.k + 1) (hrun : u.runState = .running)
    (ht : after u = .next t) :
    s.Streams p (s.mb[s.k.toNat]?.map (.marker · (bitMarker s.mdir))).toList t := by
  obtain ⟨-, hcount, -, hdir⟩ := h.grounded.here _ _ h.ctlp
  obtain ⟨-, hbits⟩ := h.grounded.bits
  have hstands := h.stands
  simp only [line] at hc
  split at hc <;> cases hc; cases ht
  case isTrue hmore =>
    have hlt : s.k.toNat < s.N := hcount ▸ hmore
    have hnext : u.k.toNat = s.k.toNat + 1 := by
      rw [hk, BitVec.toNat_add]
      exact Nat.mod_eq_of_lt (show s.k.toNat + 1 < 2 ^ 7 by omega)
    have hne : u.k ≠ 0#7 := by rintro hzero; simp [hzero] at hnext
    have hkind : bitMarker s.mdir = s.dirKind := by rw [hdir]; rfl
    rw [List.getElem?_eq_getElem hmore, hkind]
    refine ⟨.word (s.k.toNat + 1), ?_, State.Stands.admits (l := .gw18)
      ((if_neg hne).trans (by rw [hnext])).symm (State.top_of_ctlp (hu.trans h.ctlp))
      (inRun_of_running hrun)⟩
    by_cases hfirst : s.k = 0#7
    · cases hstands.trans (if_pos hfirst)
      simp [Phase.run, Phase.accept, hfirst, show 0 < s.N by omega]
    · cases hstands.trans (if_neg hfirst)
      simp [Phase.run, Phase.accept, hlt]

theorem gw19_streams (h : s.StreamAt p .gw19 stack) (hc : line .gw19 s = .operation c after)
    (hfs : u.fs = s.fs) (hrun : u.runState = .running) (ht : after u = .next t)
    (start stop : Sample) (dout din : BitVec 64) :
    s.Streams p [.result start stop dout din (cfgN s.cfgl)] t := by
  obtain ⟨-, hfirst, -⟩ := h.grounded.here _ _ h.ctlp
  cases show p = .word s.N from h.stands
  rw [gw19_rest hc hrun (hfs ▸ hfirst) ht]
  refine ⟨.transaction, ?_, .goto (inRun_of_running hrun) rfl⟩
  simp [Phase.run, Phase.accept, State.N]

theorem gw20_streams (h : s.StreamAt p .gw20 stack) (hc : line .gw20 s = .operation c after)
    (hrun : u.runState = .running) (ht : after u = .next t) :
    s.Streams p [.disable s.ds.val] t := by
  have henable := h.grounded.here _ _ h.ctlp
  have hstands := h.stands
  simp only [line] at hc
  split at hc <;> cases hc; cases ht
  case isTrue hnr =>
    cases show p = .transaction from hstands
    exact ⟨.boundary, by simp [Phase.run, Phase.accept, show s.present .en = true from henable hnr],
      .call (u := u.record _) (inRun_of_running hrun) nofun rfl⟩

/-- A line whose operation is performed: the grammar accepts its record, and the stream stands where
control then is. -/
theorem State.StreamAt.performed (h : s.StreamAt p l stack) (hc : line l s = .operation c after)
    (hop : operationAt s.mdir l = some i) (hexec : exec i s = .next u)
    (hperf : s.Performed (writes i) u) (hrun : u.runState = .running) (ht : after u = .next t) :
    s.Streams p (siteRecord s l).toList t := by
  have hu := hperf.ctlp
  by_cases hl : l ∈ emissionLabels
  case neg =>
    have hsite : siteRecord s l = none := by
      cases l
      case rs3 | rs5 | rs9 | rc10 | gw18 | gw19 | gw20 => exact absurd (by decide) hl
      all_goals rfl
    rw [hsite]
    exact ⟨p, rfl, h.quiet hl hc hu hperf.same.cfgl hrun ht⟩
  case pos =>
    obtain rfl | rfl | rfl | rfl | rfl | rfl | rfl := (show l = .rs3 ∨ l = .rs5 ∨ l = .rs9 ∨
      l = .rc10 ∨ l = .gw18 ∨ l = .gw19 ∨ l = .gw20 by simpa [emissionLabels] using hl)
    · exact rs3_streams h hc hperf.same.cfgl hrun ht
    · exact rs5_streams h hc hrun ht
    · exact rs9_streams h hc hu hrun ht
    · have hrt : u.rt = s.rt := hperf.same.fields .rt (mb_notMem_writes i).2
      exact rc10_streams h hc hu hrt hrun ht
    · obtain ⟨kind, code, hmarker⟩ := exec_gw18_operation hop
      obtain ⟨-, -, hk⟩ := (emitBitMarkerOp_result (hmarker.symm.trans hexec)).resolve_left
        fun hstop => hstop.not_running hrun
      exact gw18_streams h hc hu hk hrun ht
    · cases hop
      exact gw19_streams h hc (hperf.same.fields (.reg .fs) (by decide)) hrun ht _ _ _ _
    · exact gw20_streams h hc hrun ht

/-! ### A line whose operation stops -/

/-- The emissions of a word's markers and of its result neither wait nor end the run. -/
theorem word_proceeds (hl : l = .gw18 ∨ l = .gw19) (hc : line l s = .operation c after)
    (hr : s.inRun = true) (hop : operationAt s.mdir l = some i) (hexec : exec i s = .next t) :
    t.runState = .running := by
  rw [← State.resumed_of_inRun hr]
  rcases hl with rfl | rfl
  · obtain ⟨kind, code, hmarker⟩ := exec_gw18_operation hop
    simp only [line] at hc
    split at hc
    case isTrue hmore =>
      cases (emitBitMarkerOp_eq kind code hmore).symm.trans (hmarker.symm.trans hexec)
      rfl
    case isFalse => cases hc
  · cases hop
    cases hexec
    rfl

theorem State.StreamAt.stopped (h : s.StreamAt p l stack) (hc : line l s = .operation c after)
    (hop : operationAt s.mdir l = some i) (hexec : exec i s = .next t) (hstop : s.Stopped t) :
    t.Admits p := by
  rcases hstop.stops with ⟨hwait, hctlp⟩ | ⟨hend, -⟩
  · refine (h.stands.congr hctlp hstop.same.cfgl (hstop.same.fields .rt (by decide))
      (hstop.same.fields .k (by decide))).admits (State.top_of_ctlp (hctlp.trans h.ctlp)) ?_
    simp [State.inRun, hwait]
  · refine ⟨fun hr => by simp [hend] at hr, fun _ => h.not_word ⟨?_, ?_⟩⟩
    · exact fun hl => hstop.not_running (word_proceeds (.inl hl) hc h.run hop hexec)
    · exact fun hl => hstop.not_running (word_proceeds (.inr hl) hc h.run hop hexec)

/-! ## A step -/

theorem pointStep_streams (h : s.Grounded) (hp : s.Admits p) (ht : pointStep s = .next t) :
    ∃ rs, t.sink = s.sink ++ rs ∧ s.Streams p rs t := by
  rcases pointStep_cases h.control ht with ⟨-, rfl⟩ | ⟨l, stack, c, after, hl, hc, ht⟩
  · exact ⟨[], (List.append_nil _).symm, p, rfl, hp⟩
  · have hat := h.streamAt hp hl
    obtain ⟨i, hop, ⟨hexec, hstop, hsink⟩ | ⟨u, hperf, hexec, hrun, hafter, hsink⟩⟩ :=
      h.operation hl hc ht
    · exact ⟨[], hsink.trans (List.append_nil _).symm, p, rfl, hat.stopped hc hop hexec hstop⟩
    · exact ⟨_, hsink, hat.performed hc hop hexec hperf hrun hafter⟩

/-- Settles O53: where the stream stands is said at each label (`State.Stands`); lines without an
operation leave it there, and the grammar accepts the record of each emission. -/
theorem streamGrammar : Obligations.StreamGrammar := by
  unfold Obligations.StreamGrammar
  constructor
  · intro s t p hproper hr hp ht
    have hadmits : s.Admits p := ⟨fun _ => hp, fun hno => absurd hr (by simp [hno])⟩
    obtain ⟨hgrounded, hadmits⟩ := settle_admits hproper.grounded hadmits settleFuel
    have hf := settle_frame settleFuel s
    obtain ⟨rs, hsink, q, hrun, hq⟩ :=
      pointStep_streams hgrounded hadmits ((if_pos hr).symm.trans ht)
    rw [hf.sink] at hsink
    rw [State.present, State.N, State.dirKind, hf.cfgl] at hrun
    exact ⟨rs, q, hsink, hrun, hq⟩
  · intro s t hr hlegal ht
    have hgo : s.goBit = s.startRun := by simp [State.goBit, hr, hlegal]
    have hbit : t = s.goBit.accepted := by cases ht; rfl
    rw [hbit, hgo]
    rfl

end

end Sys2Proof.Machine
end

section
/-! The host port: what an access of each kind returns and writes, and the statements of
46_host_interface.md. -/

namespace Sys2Proof.Machine

open Sys2Proof

section
variable {s : State} {v : Sys2Proof.Word}

/-! ## The configuration word (R150, R151) -/

theorem cfgDefined_getLsbD : ∀ j < 32, cfgDefined.getLsbD j = decide (j < 15 ∧ j ≠ 7) := by decide

/-- A word with its reserved bits cleared, bit by bit. -/
theorem and_cfgDefined_getLsbD (w : Sys2Proof.Word) {j : Nat} (hj : j < 32) :
    (w &&& cfgDefined).getLsbD j = (decide (j < 15 ∧ j ≠ 7) && w.getLsbD j) := by
  rw [BitVec.getLsbD_and, cfgDefined_getLsbD j hj, Bool.and_comm]

theorem cfgLegal_iff {w : Sys2Proof.Word} : cfgLegal w = true ↔
    1 ≤ (cfgN w).toNat ∧ (cfgN w).toNat ≤ 64 ∧
      (cfgPresent w .dout = true ∨ cfgPresent w .din = true) := by
  simp [cfgLegal, and_assoc]

/-- Settles O35: both accesses clear the reserved bits of the word. -/
theorem cfgAccess : Obligations.CfgAccess := by
  unfold Obligations.CfgAccess
  exact fun s => ⟨⟨s.cfg &&& cfgDefined, fun _ => and_cfgDefined_getLsbD s.cfg, rfl⟩,
    fun v => ⟨v &&& cfgDefined, fun _ => and_cfgDefined_getLsbD v, rfl⟩⟩

/-! ## `GO` and `CANCEL` (R151, R152, R156) -/

theorem State.inRun_iff : s.inRun = true ↔ s.runState = .running ∨ s.runState = .waiting := by
  simp [State.inRun]

theorem State.goBit_of_inRun (hr : s.inRun = true) : s.goBit = s := if_pos hr

theorem State.goBit_of_legal (hr : s.inRun = false) (hl : cfgLegal s.cfg = true) :
    s.goBit = s.startRun := by
  simp [State.goBit, hr, hl]

theorem State.goBit_of_illegal (hr : s.inRun = false) (hl : cfgLegal s.cfg = false) :
    s.goBit = { s with runState := .rejected, cause := .configRejected } := by
  simp [State.goBit, hr, hl]

/-- Bit [1] of a `CTRL` write during a run. -/
theorem State.cancel_of_inRun (b : Bool) (hr : s.inRun = true) :
    (if b then s.cancelBit else s) = { s with cp := s.cp || b } := by
  cases b
  · simp
  · simp [State.cancelBit, hr]

/-- Bit [1] of a `CTRL` write between runs. -/
theorem State.cancel_of_betweenRuns (b : Bool) (hr : s.inRun = false) :
    (if b then s.cancelBit else s) = s := by
  simp [State.cancelBit, hr]

theorem ctrlWriteOp_of_go (h : v.getLsbD 0 = true) :
    ctrlWriteOp v s =
      .next (if v.getLsbD 1 then s.goBit.cancelBit else s.goBit).accepted := by
  simp only [ctrlWriteOp, h, if_true]

theorem ctrlWriteOp_of_not_go (h : v.getLsbD 0 = false) :
    ctrlWriteOp v s = .next (if v.getLsbD 1 then s.cancelBit else s).accepted := by
  simp only [ctrlWriteOp, h, Bool.false_eq_true, if_false]

/-- During a run `GO` is ignored, so only bit [1] counts. -/
theorem ctrlWriteOp_of_inRun (v : Sys2Proof.Word) (hr : s.inRun = true) :
    ctrlWriteOp v s = .next { s with cp := s.cp || v.getLsbD 1, hostErr := false } := by
  rw [ctrlWriteOp, State.goBit_of_inRun hr, ite_self, State.cancel_of_inRun _ hr]
  rfl

theorem ctrlWriteOp_starts (h : v.getLsbD 0 = true) (hr : s.inRun = false)
    (hl : cfgLegal s.cfg = true) :
    ctrlWriteOp v s = .next { s.startRun with cp := v.getLsbD 1, hostErr := false } := by
  rw [ctrlWriteOp_of_go h, State.goBit_of_legal hr hl, State.cancel_of_inRun _ rfl]
  rfl

theorem ctrlWriteOp_rejects (h : v.getLsbD 0 = true) (hr : s.inRun = false)
    (hl : cfgLegal s.cfg = false) :
    ctrlWriteOp v s = .next { s with
      runState := .rejected, cause := .configRejected, hostErr := false } := by
  rw [ctrlWriteOp_of_go h, State.goBit_of_illegal hr hl, State.cancel_of_betweenRuns _ rfl]
  rfl

/-- A write of `CTRL` is the one operation, under each of its names. -/
theorem exec_eq_ctrlWriteOp {i : Instr}
    (h : i = .go ∧ v = 1#32 ∨ i = .cancel ∧ v = 2#32 ∨ i = .wrCtrl v) (s : State) :
    exec i s = ctrlWriteOp v s := by
  rcases h with ⟨rfl, rfl⟩ | ⟨rfl, rfl⟩ | rfl <;> rfl

/-- Where a run starts, the cursors of present channels at 0; the others are left as they are. -/
theorem startPositions_eq (w : Sys2Proof.Word) (p : PerChannel Sample) : startPositions w p =
    { clk := 0#64
      dout := if cfgPresent w .dout then 0#64 else (startPositions w p).dout
      din := if cfgPresent w .din then 0#64 else (startPositions w p).din
      en := if cfgPresent w .en then 0#64 else (startPositions w p).en } := by
  simp +contextual [startPositions]

/-- Settles O36: `GO` by its three branches, bit [1] on what they leave. -/
theorem goWrite : Obligations.GoWrite := by
  unfold Obligations.GoWrite
  intro i v s hi hgo legal new
  rw [exec_eq_ctrlWriteOp (hi.imp_right .inr)]
  have hlegal : legal ↔ cfgLegal s.cfg = true := cfgLegal_iff.symm
  refine ⟨fun hr => ctrlWriteOp_of_inRun v hr, fun hr hl => ?_, fun hr hl => ?_⟩
  · refine ⟨_, ctrlWriteOp_starts hgo hr (hlegal.mp hl), rfl, ?_⟩
    exact congrArg
      (fun p => ({ s.startRun with pos := p, cp := v.getLsbD 1, hostErr := false } : State))
      (startPositions_eq s.cfg s.pos)
  · exact ctrlWriteOp_rejects hgo hr (Bool.eq_false_iff.mpr fun h => hl (hlegal.mpr h))

/-- Settles O37: without bit [0] only `CANCEL` is left. -/
theorem cancelWrite : Obligations.CancelWrite := by
  unfold Obligations.CancelWrite
  intro i v s hi hgo hcancel
  rw [exec_eq_ctrlWriteOp (.inr hi)]
  constructor
  · intro hr
    rw [ctrlWriteOp_of_inRun v (State.inRun_iff.mpr hr), hcancel, Bool.or_true]
  · intro hrunning hwaiting
    have hr : s.inRun = false :=
      Bool.eq_false_iff.mpr fun h => (State.inRun_iff.mp h).elim hrunning hwaiting
    rw [ctrlWriteOp_of_not_go hgo, State.cancel_of_betweenRuns _ hr]
    rfl

/-! ## The status word (30_encoding.md R71) -/

theorem State.statusWord_state (s : State) : s.statusWord.extractLsb' 0 3 = s.runState.code := by
  rw [State.statusWord, BitVec.extractLsb'_setWidth_of_le (by decide),
    BitVec.extractLsb'_append_eq_right]

theorem State.statusWord_cp (s : State) : s.statusWord.getLsbD 3 = s.cp := by
  rw [State.statusWord, BitVec.getLsbD_setWidth, BitVec.getLsbD_append, BitVec.getLsbD_append]
  simp

/-- The fields above `STATE` and `CP`. -/
theorem State.statusWord_above (s : State) {start len : Nat} (h : 4 ≤ start)
    (hlen : start + len ≤ 32) : s.statusWord.extractLsb' start len =
      (s.proc ++ s.op ++ s.cause.code).extractLsb' (start - 4) len := by
  rw [State.statusWord, BitVec.extractLsb'_setWidth_of_le hlen,
    BitVec.extractLsb'_append_eq_of_le (by omega), BitVec.extractLsb'_append_eq_of_le (by omega),
    Nat.sub_sub]

theorem State.statusWord_cause (s : State) : s.statusWord.extractLsb' 4 4 = s.cause.code := by
  rw [s.statusWord_above (by decide) (by decide), BitVec.extractLsb'_append_eq_right]

theorem State.statusWord_op (s : State) : s.statusWord.extractLsb' 8 8 = s.op := by
  rw [s.statusWord_above (by decide) (by decide), BitVec.extractLsb'_append_eq_of_le (by decide),
    BitVec.extractLsb'_append_eq_right]

theorem State.statusWord_proc (s : State) : s.statusWord.extractLsb' 16 5 = s.proc := by
  rw [s.statusWord_above (by decide) (by decide), BitVec.extractLsb'_append_eq_of_le (by decide),
    BitVec.extractLsb'_append_eq_of_le (by decide), BitVec.extractLsb'_eq_self]

theorem State.statusWord_reserved (s : State) : s.statusWord.extractLsb' 21 11 = 0#11 := by
  rw [s.statusWord_above (by decide) (by decide), BitVec.extractLsb'_append_eq_of_le (by decide),
    BitVec.extractLsb'_append_eq_of_le (by decide)]
  ext k hk
  simp

theorem State.proc_of_empty (h : s.ctlp = []) : s.proc = 0 := by
  simp only [State.proc, h]

theorem State.proc_of_line {l : Label} {rest : List Point} (h : s.ctlp = .line l :: rest) :
    s.proc = labelProc l := by
  simp only [State.proc, h]

/-- Settles O38, field by field of the status word. -/
theorem statusRead : Obligations.StatusRead := by
  unfold Obligations.StatusRead
  refine ⟨fun s => ⟨s.statusWord, rfl, s.statusWord_state, s.statusWord_cp, s.statusWord_cause,
    s.statusWord_op, fun h => ?_, fun l rest h => ?_, s.statusWord_reserved⟩, by decide⟩
  · rw [s.statusWord_proc, State.proc_of_empty h]
  · rw [s.statusWord_proc, State.proc_of_line h]

/-! ## The other accesses (R154, R155) -/

/-- Settles O39: the reads return 0 and the writes are ignored; a `CTRL` write without its two bits
does neither `GO` nor `CANCEL`. -/
theorem otherAccesses : Obligations.OtherAccesses := by
  unfold Obligations.OtherAccesses
  refine fun s => ⟨rfl, fun v hgo hcancel => ?_, fun _ => rfl, rfl, fun _ => rfl⟩
  rw [exec_eq_ctrlWriteOp (.inr (.inr rfl)), ctrlWriteOp_of_not_go hgo, hcancel]
  rfl

/-- Every host access that is an instruction is at a multiple of 4. -/
theorem aligned_of_decodeHa {b : BitVec 8} {i : Instr} (h : decodeHa b v = some i) :
    (b.extractLsb' 0 4).toNat % 4 = 0 := by
  unfold decodeHa at h
  split at h
  case isFalse => cases h
  case isTrue =>
    split at h
    case h_9 => cases h
    all_goals
      rename_i hoffset
      rw [hoffset]

theorem HostAccess.code_offset (a : HostAccess) : a.code.bits.extractLsb' 0 4 = a.offset := by
  have hfields : ∀ (w : Bool) (o : BitVec 4),
      ((BitVec.ofBool w ++ o).setWidth 8).extractLsb' 0 4 = o := by decide
  exact hfields a.write a.offset

theorem hostInput_of_refused {a : HostAccess} (h : a.size ≠ .word ∨ a.offset.toNat % 4 ≠ 0)
    (s : State) : hostInput a s = refusedAccess a.write s := by
  unfold hostInput; split
  case h_1 hsize hi =>
    exact h.elim (absurd hsize) (absurd (a.code_offset ▸ aligned_of_decodeHa hi))
  case h_2 => rfl

theorem step_of_refused {a : HostAccess} {rest : List Input} (henv : s.env = .host a :: rest)
    (h : a.size ≠ .word ∨ a.offset.toNat % 4 ≠ 0) :
    step s = refusedAccess a.write { s with env := rest } :=
  (step_of_env_cons henv).trans (hostInput_of_refused h _)

/-- Settles O40: the access is a `refusedAccess`, which writes the two lines of the host port. -/
theorem HostAccess.refusedAccess : Obligations.RefusedAccess := by
  unfold Obligations.RefusedAccess
  intro s a rest henv hrefused
  exact ⟨_, step_of_refused henv hrefused, fun hread => by simp [hread], rfl⟩

end

end Sys2Proof.Machine
end

section
/-! How an operation of the decoder leaves `STATE` and `CP`: what each operation reads, and that it
takes `INTERNAL_FAULT` only where that is missing and `CANCELLED` only by the poll
(60_exceptions.md R160 to R164). -/

namespace Sys2Proof.Machine

open Sys2Proof

/-! ## What an operation reads -/

/-- The channel of a cursor operation; the other operations need none, as the clock always has. -/
def channelOf : Instr → Channel
  | .curLevelDout | .curPosDout | .curAdvEdgeDout | .curAdvToDout _ | .curNextEdgeDout
  | .curWouldCrossDout _ | .curHasMoreDout => .dout
  | .curLevelDin | .curPosDin | .curAdvEdgeDin | .curAdvToDin _ | .curNextEdgeDin
  | .curWouldCrossDin _ | .curHasMoreDin => .din
  | .curLevelEn | .curPosEn | .curAdvEdgeEn | .curAdvToEn _ | .curNextEdgeEn
  | .curWouldCrossEn _ | .curHasMoreEn => .en
  | _ => .clk

/-- The working registers an operation reads. -/
def readsOf : Instr → List SampleReg
  | .curAdvToClk r | .curAdvToDout r | .curAdvToDin r | .curAdvToEn r | .curWouldCrossClk r
  | .curWouldCrossDout r | .curWouldCrossDin r | .curWouldCrossEn r => [selReg r]
  | .emitStart | .emitMarkerError => [.cs]
  | .emitError => [.es, .cs]
  | .emitDisable d => [disableReg d]
  | .emitResult => [.fs]
  | _ => []

/-- The accumulator an operation adds a bit to. -/
def addsTo : Instr → List AccSel
  | .accAddBitDout0 | .accAddBitDout1 => [.dout]
  | .accAddBitDin0 | .accAddBitDin1 => [.din]
  | _ => []

/-- The per-bit markers, which read an entry of `MB`. -/
def readsMarker : Instr → Bool
  | .emitMarkerUp | .emitMarkerDown => true
  | _ => false

/-- All that the operation `i` reads is there, so that it is no internal fault. -/
structure State.Provides (s : State) (i : Instr) : Prop where
  channel : s.present (channelOf i) = true
  regs : ∀ r ∈ readsOf i, (s.reg r).written = true
  bits : ∀ a ∈ addsTo i, (s.acc a).r ≠ 0#7
  marker : readsMarker i = true → s.k.toNat < s.mb.length

/-! ## How it leaves `STATE` and `CP` -/

/-- `CP` stays, and `STATE` says that the operation proceeded, waits, or has ended the run: with
`CANCELLED` only where it `cancels`, with `INTERNAL_FAULT` only where it is not `provided`. -/
structure State.Becomes (s : State) (cancels provided : Prop) (u : State) : Prop where
  cp : u.cp = s.cp
  ends : u.runState = s.runState.resumed ∨ u.runState = .waiting ∨ u.runState = .doneEod ∨
    (u.runState = .doneCancel ∧ cancels) ∨ (u.runState = .fault ∧ ¬ provided)

section
variable {s u : State} {c : Channel} {r : SampleReg} {code : BitVec 8} {C P : Prop}

theorem State.Becomes.goesOn (hcp : u.cp = s.cp) (hr : u.runState = s.runState.resumed) :
    s.Becomes C P u :=
  ⟨hcp, .inl hr⟩

theorem State.Becomes.fault (s : State) (code : BitVec 8) (h : ¬ P) :
    s.Becomes C P (s.internalFault code) :=
  ⟨rfl, .inr (.inr (.inr (.inr ⟨rfl, h⟩)))⟩

theorem State.Becomes.needsData (s : State) (c : Channel) (code : BitVec 8) :
    s.Becomes C P (s.needsData c code) := by
  unfold State.needsData; split
  · exact ⟨rfl, .inr (.inr (.inl rfl))⟩
  · exact ⟨rfl, .inr (.inl rfl)⟩

theorem onChannel_becomes {f : State → State} (h : onChannel c code s f = .next u)
    (hp : P → s.present c = true) (hf : s.Becomes C P (f s)) : s.Becomes C P u := by
  cases h; split
  case isTrue => exact hf
  case isFalse habsent => exact .fault s code (mt hp habsent)

theorem withReg_becomes {f : Sample → State} (hp : P → (s.reg r).written = true)
    (hf : s.Becomes C P (f (s.reg r).val)) : s.Becomes C P (withReg r code s f) := by
  unfold withReg; split
  case isTrue => exact hf
  case isFalse hunwritten => exact .fault s code (mt hp hunwritten)

theorem levelOp_becomes (h : levelOp c code s = .next u) (hp : P → s.present c = true) :
    s.Becomes C P u :=
  onChannel_becomes h hp (.goesOn rfl rfl)

theorem posOp_becomes (h : posOp c code s = .next u) (hp : P → s.present c = true) :
    s.Becomes C P u :=
  onChannel_becomes h hp (.goesOn rfl rfl)

theorem hasMoreOp_becomes (h : hasMoreOp c code s = .next u) (hp : P → s.present c = true) :
    s.Becomes C P u :=
  onChannel_becomes h hp (.goesOn rfl rfl)

theorem advEdgeOp_becomes (h : advEdgeOp c code s = .next u) (hp : P → s.present c = true) :
    s.Becomes C P u := by
  refine onChannel_becomes h hp ?_
  split
  · exact .goesOn rfl rfl
  · exact .needsData s c code

theorem nextEdgeOp_becomes (h : nextEdgeOp c code s = .next u) (hp : P → s.present c = true) :
    s.Becomes C P u := by
  refine onChannel_becomes h hp ?_
  split
  · exact .goesOn rfl rfl
  · exact .needsData s c code

theorem advToOp_becomes (h : advToOp c r code s = .next u) (hp : P → s.present c = true)
    (hw : P → (s.reg r).written = true) : s.Becomes C P u := by
  refine onChannel_becomes h hp (withReg_becomes hw ?_)
  split
  · exact .goesOn rfl rfl
  · split
    · exact .goesOn rfl rfl
    · exact .needsData s c code

theorem wouldCrossOp_becomes (h : wouldCrossOp c r code s = .next u)
    (hp : P → s.present c = true) (hw : P → (s.reg r).written = true) : s.Becomes C P u := by
  refine onChannel_becomes h hp (withReg_becomes hw ?_)
  split
  · exact .goesOn rfl rfl
  · split
    · exact .goesOn rfl rfl
    · exact .needsData s c code

theorem accAddBitOp_becomes {a : AccSel} {b : Level} (h : accAddBitOp a b code s = .next u)
    (hp : P → (s.acc a).r ≠ 0#7) : s.Becomes C P u := by
  cases h; split
  case isTrue hzero => exact .fault s code fun h => hp h hzero
  case isFalse => exact .goesOn (by simp) (by simp)

theorem pollOp_becomes (h : pollOp code s = .next u) : s.Becomes (s.cp = true) P u := by
  cases h; split
  case isTrue hcp => exact ⟨rfl, .inr (.inr (.inr (.inl ⟨rfl, hcp⟩)))⟩
  case isFalse => exact .goesOn rfl rfl

theorem emitBitMarkerOp_becomes {kind : MarkerKind} (h : emitBitMarkerOp kind code s = .next u)
    (hp : P → s.k.toNat < s.mb.length) : s.Becomes C P u := by
  cases h; split
  case h_1 => exact .goesOn rfl rfl
  case h_2 hnone =>
    exact .fault s code fun h => absurd (hp h) (Nat.not_lt.mpr (List.getElem?_eq_none_iff.mp hnone))

theorem State.Becomes.emit (s : State) (code : BitVec 8) (rec : Record) :
    s.Becomes C P (s.emit code rec) :=
  .goesOn rfl rfl

/-- What every operation of the decoder makes of `STATE` and `CP`. -/
theorem exec_becomes {i : Instr} (hop : isOperation i = true) (h : exec i s = .next u) :
    s.Becomes (i = .poll ∧ s.cp = true) (s.Provides i) u := by
  cases i with
  | curLevelClk | curLevelDout | curLevelDin | curLevelEn =>
    exact levelOp_becomes h fun hp => hp.channel
  | curPosClk | curPosDout | curPosDin | curPosEn => exact posOp_becomes h fun hp => hp.channel
  | curHasMoreClk | curHasMoreDout | curHasMoreDin | curHasMoreEn =>
    exact hasMoreOp_becomes h fun hp => hp.channel
  | curAdvEdgeClk | curAdvEdgeDout | curAdvEdgeDin | curAdvEdgeEn =>
    exact advEdgeOp_becomes h fun hp => hp.channel
  | curNextEdgeClk | curNextEdgeDout | curNextEdgeDin | curNextEdgeEn =>
    exact nextEdgeOp_becomes h fun hp => hp.channel
  | curAdvToClk | curAdvToDout | curAdvToDin | curAdvToEn =>
    exact advToOp_becomes h (fun hp => hp.channel) fun hp => hp.regs _ List.mem_cons_self
  | curWouldCrossClk | curWouldCrossDout | curWouldCrossDin | curWouldCrossEn =>
    exact wouldCrossOp_becomes h (fun hp => hp.channel) fun hp => hp.regs _ List.mem_cons_self
  | accResetDout | accResetDin => cases h; exact .goesOn rfl rfl
  | accAddBitDout0 | accAddBitDout1 | accAddBitDin0 | accAddBitDin1 =>
    exact accAddBitOp_becomes h fun hp => hp.bits _ List.mem_cons_self
  | poll =>
    obtain ⟨hcp, hends⟩ := pollOp_becomes (P := s.Provides .poll) h
    exact ⟨hcp, by simpa using hends⟩
  | emitStart | emitResult | emitMarkerError | emitDisable =>
    cases h
    exact withReg_becomes (fun hp => hp.regs _ List.mem_cons_self) (.emit s _ _)
  | emitError =>
    cases h
    exact withReg_becomes (fun hp => hp.regs _ List.mem_cons_self)
      (withReg_becomes (fun hp => hp.regs _ (by decide)) (.emit s _ _))
  | emitMarkerUp | emitMarkerDown => exact emitBitMarkerOp_becomes h fun hp => hp.marker rfl
  | procRun | procSetup | procResync | procAdvActiveEnable | procNextActiveEdge | procRaceCheck
  | procGetWord | procSampleData | rdCfg | wrCfg | rdCtrl | wrCtrl | rdStatus | wrStatus | rdRsvd
  | wrRsvd | go | cancel => cases hop

theorem RunState.eq_of_resumed {x y : RunState} (hy : y ≠ .running) (h : y = x.resumed) :
    x = y := by
  cases x
  case waiting => exact absurd h hy
  all_goals exact h.symm

/-- An operation that is provided takes no fault. -/
theorem State.Becomes.not_fault (h : s.Becomes C P u) (hp : P) (hs : s.runState ≠ .fault) :
    u.runState ≠ .fault := by
  intro hfault
  have hresumed : .fault = s.runState.resumed := by simpa [hfault, hp] using h.ends
  exact hs (RunState.eq_of_resumed nofun hresumed)

/-- Nothing else cancels a run. -/
theorem State.Becomes.of_cancelled (h : s.Becomes C P u) (hs : s.runState ≠ .doneCancel)
    (hu : u.runState = .doneCancel) : C := by
  have hcases : .doneCancel = s.runState.resumed ∨ C := by simpa [hu] using h.ends
  exact hcases.resolve_left fun hresumed => hs (RunState.eq_of_resumed nofun hresumed)

end

end Sys2Proof.Machine
end

section
/-! No step takes `INTERNAL_FAULT`: what each line reads is there, line after line without an
operation, and the statement of 60_exceptions.md R162. -/

namespace Sys2Proof.Machine

open Sys2Proof

/-! ## Room on the control stack (10_state.md R30) -/

section
variable {s t u : State} {l m : Label} {stack : List Point} {code : Code} {after : State → Out}
  {i : Instr}

theorem stackOk_run (h : stackOk (.line l :: stack) = true) (hp : placeOf l = 1) : stack = [] := by
  rcases stack with _ | ⟨m | c, rest⟩
  · rfl
  · exact absurd (mayReturnTo_cases (stackOk_caller h).1) (by simp [hp])
  · simp [stackOk] at h

theorem stackOk_word_length (h : stackOk (.line l :: stack) = true) (hp : placeOf l = 7) :
    stack.length ≤ 1 := by
  obtain ⟨m, rest, rfl, hm⟩ := stackOk_callerOf h (by simp [hp])
  have hrest := (stackOk_caller h).2
  obtain rfl : m = .run4 := by simpa [hp] using mayReturnTo_cases hm
  simp [stackOk_run hrest rfl]

/-- The procedures that call others leave room for one label more. -/
theorem stackOk_room (h : stackOk (.line l :: stack) = true)
    (hp : placeOf l = 1 ∨ placeOf l = 3 ∨ placeOf l = 7) : stack.length < 3 := by
  rcases hp with hp | hp | hp
  · simp [stackOk_run h hp]
  · obtain ⟨m, rest, rfl, hm⟩ := stackOk_callerOf h (by simp [hp])
    have hrest := (stackOk_caller h).2
    have hcaller : m = .run3 ∨ m = .run4 ∨ m = .gwRet := by simpa [hp] using mayReturnTo_cases hm
    rcases hcaller with rfl | rfl | rfl
    · simp [stackOk_run hrest rfl]
    · simp [stackOk_run hrest rfl]
    · have := stackOk_word_length hrest rfl
      simp only [List.length_cons]; omega
  · have := stackOk_word_length h hp
    omega

theorem State.enter_running (h : u.ctlp.length < 4) : (u.enter m).runState = u.runState := by
  rw [State.enter_of_lt u m h]

/-- A `call` where there is room. -/
theorem State.call_running (hl : u.ctlp = .line l :: stack) (h : stack.length < 3) (f e : Label) :
    (u.call f e).runState = u.runState :=
  State.enter_running (u := u.goto f) (by simp [hl]; omega)

theorem State.recordCall_running (hl : u.ctlp = .line l :: stack) (h : stack.length < 3)
    (c : Cause) (f e : Label) : ((u.record c).call f e).runState = u.runState :=
  State.call_running (u := u.record c) hl h f e

theorem State.callRace_running (hl : u.ctlp = .line l :: stack) (h : stack.length < 3) (f : Label)
    (e : Bool) : ((u.goto f).enterRace e).runState = u.runState :=
  State.enter_running (u := { u.goto f with raceEmit := e }) (by simp [hl]; omega)

/-! ## What keeps a fault away from a line -/

/-- The accumulators that the rest of `SAMPLE_DATA` adds a bit to. -/
def awaits : Label → List AccSel
  | .sd2 | .sd3 => [.dout, .din]
  | .sd4 | .sd5 => [.din]
  | _ => []

/-- What the line `l` reads is there, and what the lines that follow it without an operation read
too. -/
structure State.SafeAt (s : State) (l : Label) : Prop where
  regs : ∀ r ∈ needsReg l, (s.reg r).written = true
  enable : needsEnable l = true → s.present .en = true
  toggle : l = .gw12 → s.rt = true → s.rs.written = true
  deferred : l = .gw20 → s.nr = true → s.ds.written = true
  room : l ∈ samplingLabels → s.mb.length < 64
  bits : ∀ a ∈ awaits l, s.present (accChannel a) = true → (s.acc a).r ≠ 0#7

/-- A state from which no step takes `INTERNAL_FAULT`. -/
structure State.Safe (s : State) : Prop where
  grounded : s.Grounded
  alive : s.runState ≠ .fault
  here : ∀ l stack, s.ctlp = .line l :: stack → s.SafeAt l

/-- What the lines of `SAMPLE_DATA` after its first have in common. -/
theorem sampling_facts (h : l ∈ samplingLabels) : placeOf l = 8 ∧ needsReg l = [.cs] ∧
    needsEnable l = false ∧ l ≠ .gw12 ∧ l ≠ .gw20 := by
  revert h; cases l <;> decide

theorem sampling_of_awaits {a : AccSel} (h : a ∈ awaits l) : l ∈ samplingLabels := by
  have hne : awaits l ≠ [] := List.ne_nil_of_mem h
  revert hne; cases l <;> decide

/-! ### A state in good order -/

/-- In `SAMPLE_DATA` bit `I` is one of the `N`. -/
theorem State.Proper.index_of_sampling (h : s.Proper) (hl : s.ctlp = .line l :: stack)
    (hmem : l ∈ samplingLabels) : s.i.toNat < s.N := by
  obtain ⟨h8, -⟩ := sampling_facts hmem
  have hok := h.sound.stack
  rw [hl] at hok
  obtain ⟨m, rest, rfl, hm⟩ := stackOk_callerOf hok (by simp [h8])
  have hcaller : .line m ∈ s.ctlp := by simp [hl]
  obtain rfl | rfl := sampleCaller (h8 ▸ hm) <;> exact h.index _ hcaller rfl

/-- Before the last of the accumulators has its bit, the buffer of markers has room. -/
theorem State.Proper.room (h : s.Proper) (hl : s.ctlp = .line l :: stack)
    (hmem : l ∈ samplingLabels) : s.mb.length < 64 := by
  have hi : s.i.toNat < s.N := h.index_of_sampling hl hmem
  have hN := h.sound.N_bounds.2
  have hcount (p : Progress) (hp : progressAt l = some p) := (h.counted (State.top_of_ctlp hl) hp).1
  have hnoted : s.mb.length = s.i.toNat := by
    cases l <;> simp only [samplingLabels, List.mem_cons, List.not_mem_nil, reduceCtorEq] at hmem
    case sd2 | sd3 => exact hcount .bit rfl
    case sd4 | sd5 => exact hcount .bitDout rfl
    case sd6 => exact hcount .bitBoth rfl
    all_goals simp at hmem
  omega

/-- An accumulator that has not got bit `I` waits for one. -/
theorem State.Proper.bits (h : s.Proper) (hl : s.ctlp = .line l :: stack) {a : AccSel}
    (ha : a ∈ awaits l) (hp : s.present (accChannel a) = true) : (s.acc a).r ≠ 0#7 := by
  have hi : s.i.toNat < s.N := h.index_of_sampling hl (sampling_of_awaits ha)
  obtain ⟨p, hprog, hadded⟩ : ∃ p, progressAt l = some p ∧ s.added a p = s.i.toNat := by
    cases l <;> simp only [awaits, List.mem_cons, List.not_mem_nil, or_false] at ha
    case sd2 | sd3 => exact ⟨.bit, rfl, rfl⟩
    case sd4 | sd5 => exact ⟨.bitDout, rfl, by rw [ha]; rfl⟩
  have hleft := (h.counted (State.top_of_ctlp hl) hprog).2 a hp
  intro hzero
  rw [hzero, hadded] at hleft
  exact absurd hleft (by simp; omega)

theorem State.Proper.safeAt (h : s.Proper) (hl : s.ctlp = .line l :: stack) : s.SafeAt l :=
  ⟨h.written l (State.top_of_ctlp hl), h.enable l (hl ▸ List.mem_cons_self),
    fun _ hrt => (h.toggle hrt).1, fun _ hnr => (h.deferred hnr).1, h.room hl,
    fun _ ha hp => h.bits hl ha hp⟩

theorem State.Proper.safe (h : s.Proper) (hr : s.runState ≠ .fault) : s.Safe :=
  ⟨h.grounded, hr, fun _ _ hl => h.safeAt hl⟩

/-! ### Lines without an operation -/

theorem State.SafeAt.noteSample_running (h : s.SafeAt .sd6) :
    s.noteSample.runState = s.runState := by
  rw [State.noteSample, if_pos (h.room (by decide)),
    withReg_written (r := .cs) _ (h.regs .cs (by decide))]
  rfl

/-- A line without an operation takes no fault: there is room for the label of a call, and what
`GW.12` and `SD.6` read is there. -/
theorem State.SafeAt.silent_running (h : s.SafeAt l) (hok : stackOk s.ctlp = true)
    (hl : s.ctlp = .line l :: stack) (ht : line l s = .silent t) : t.runState = s.runState := by
  have hroom (hp : placeOf l = 1 ∨ placeOf l = 3 ∨ placeOf l = 7) : stack.length < 3 :=
    stackOk_room (hl ▸ hok) hp
  cases l <;> simp only [line, operate] at ht
  case run1 | run2 | run3 | rs1 => cases ht; exact State.call_running hl (hroom (by decide)) _ _
  case run4 | su1 | gw10 | gwRet => cases ht; rfl
  case ae1 | rc10 | gw8 | gw18 | gw20 | sd2 | sd3 | sd4 | sd5 => split at ht <;> cases ht; rfl
  case rc1 => split at ht <;> cases ht <;> rfl
  case ae2 =>
    cases ht; unfold State.callNextActive; split
    case isTrue hlt =>
      rw [hl, List.length_cons] at hlt
      exact State.call_running hl (by omega) _ _
    case isFalse => rfl
  case gw4 | gw4next => cases ht; unfold State.loopAt; split <;> rfl
  case gw5 | gw11 | gw14 =>
    cases ht; exact State.callRace_running hl (hroom (by decide)) _ _
  case gw6 | gw15 =>
    cases ht; split
    · exact State.recordCall_running hl (hroom (by decide)) _ _ _
    · rfl
  case gw9 | gw17 =>
    cases ht; split
    · exact State.call_running hl (hroom (by decide)) _ _
    · rfl
  case gw12 =>
    cases ht; split
    case isTrue hrt => rw [withReg_written (r := .rs) _ (h.toggle rfl hrt)]; rfl
    case isFalse => rfl
  case sd6 => cases ht; exact h.noteSample_running
  all_goals cases ht

/-- The labels at which nothing is read that is not always there. -/
def asksNothing (m : Label) : Bool :=
  (needsReg m).isEmpty && !needsEnable m && m != .gw12 && m != .gw20

theorem State.SafeAt.of_asksNothing (hm : asksNothing m = true) : t.SafeAt m := by
  simp only [asksNothing, Bool.and_eq_true, List.isEmpty_iff, Bool.not_eq_true', bne_iff_ne] at hm
  obtain ⟨⟨⟨hregs, hen⟩, htoggle⟩, hdeferred⟩ := hm
  have hsampling : m ∉ samplingLabels := fun h => by simp [(sampling_facts h).2.1] at hregs
  exact ⟨by simp [hregs], by simp [hen], fun h => absurd h htoggle, fun h => absurd h hdeferred,
    fun h => absurd h hsampling, fun _ ha => absurd (sampling_of_awaits ha) hsampling⟩

/-- The first lines with the enable channel read only its data. -/
theorem State.SafeAt.of_enable (hm : m = .ae2 ∨ m = .na1 ∨ m = .ae2n1 ∨ m = .rc2)
    (he : t.present .en = true) : t.SafeAt m := by
  have hnot : m ∉ samplingLabels := by rcases hm with rfl | rfl | rfl | rfl <;> decide
  rcases hm with rfl | rfl | rfl | rfl <;>
    exact ⟨nofun, fun _ => he, nofun, nofun, fun h => absurd h hnot, nofun⟩

theorem State.SafeAt.of_toggle (h : t.rt = true → t.rs.written = true) : t.SafeAt .gw12 :=
  ⟨nofun, nofun, fun _ => h, nofun, fun hm => absurd hm (by decide), nofun⟩

/-- From line to line of `SAMPLE_DATA` no more is read. -/
theorem State.SafeAt.goto (h : s.SafeAt l) (hl : l ∈ samplingLabels) (hm : m ∈ samplingLabels)
    (hbits : awaits m ⊆ awaits l) : (s.goto m).SafeAt m := by
  obtain ⟨-, hregs, hen, htoggle, hdeferred⟩ := sampling_facts hm
  have hcs : s.cs.written = true := h.regs .cs (by simp [(sampling_facts hl).2.1])
  refine ⟨fun r hr => ?_, by simp [hen], fun h => absurd h htoggle, fun h => absurd h hdeferred,
    fun _ => h.room hl, fun a ha hp => ?_⟩
  · obtain rfl : r = .cs := by simpa [hregs] using hr
    exact hcs
  · have hne := h.bits a (hbits ha) hp
    cases a <;> exact hne

/-- Where the procedures return whose last line may perform no operation. -/
def returnsQuietly : Label → Bool
  | .su1 | .rc1 | .rc10 | .gw20 | .gwRet | .sd6 => true
  | _ => false

/-- Beside the lines that ask for the enable channel and those of `SAMPLE_DATA`, a line without an
operation leads to lines that read nothing, and returns to such lines or to `GW.12`. -/
theorem silent_asksNothing (ht : line l s = .silent t)
    (hl : l ≠ .ae1 ∧ l ≠ .ae2 ∧ l ≠ .rc1 ∧ (l = .sd6 ∨ l ∉ samplingLabels)) :
    (∀ m ∈ flow l, asksNothing m = true) ∧
      (returns l = true → ∀ m, mayReturnTo (placeOf l) m = true →
        asksNothing m = true ∨ (l = .rc10 ∧ m = .gw12)) := by
  cases l
  case ae1 | ae2 | rc1 | sd2 | sd3 | sd4 | sd5 => simp [samplingLabels] at hl
  case su1 | rc10 | gw20 | gwRet | sd6 =>
    refine ⟨by decide, fun _ m hm => ?_⟩
    revert hm; cases m <;> decide
  case rs1 | run1 | run2 | run3 | run4 | gw4 | gw5 | gw6 | gw8 | gw9 | gw10 | gw11 | gw12 | gw14
    | gw15 | gw17 | gw4next | gw18 => exact ⟨by decide, nofun⟩
  all_goals cases ht

/-- `RACE_CHECK` returns without an operation: at `RC.10`, what `GW.12` reads is there, and without
the enable channel it reads nothing. -/
theorem safeAt_of_raceReturn (hm : mayReturnTo 6 m = true)
    (h : t.rt = true → t.rs.written = true) : t.SafeAt m := by
  obtain rfl | rfl | rfl := raceCaller hm
  · exact .of_asksNothing rfl
  · exact .of_toggle h
  · exact .of_asksNothing rfl

theorem mayReturnTo_of_ret {stack' : List Point} (hok : stackOk s.ctlp = true)
    (hl : s.ctlp = .line l :: stack) (hm : s.ctlp.tail = .line m :: stack') :
    mayReturnTo (placeOf l) m = true := by
  obtain rfl : stack = .line m :: stack' := by simpa [hl] using hm
  exact (stackOk_caller (hl ▸ hok)).1

/-- A line without an operation hands on that what is read is there. -/
theorem State.SafeAt.silent {stack' : List Point} (h : s.SafeAt l) (hok : stackOk s.ctlp = true)
    (hl : s.ctlp = .line l :: stack) (ht : line l s = .silent t)
    (hm : t.ctlp = .line m :: stack') : t.SafeAt m := by
  have hleads : m ∈ flow l ∨
      (returns l = true ∧ mayReturnTo (placeOf l) m = true) ∨ (l = .gw18 ∧ m = .gw18) := by
    rcases line_silent_leads ht with hnil | ⟨-, ⟨k, hk, htop⟩ | ⟨hret, htail⟩ | ⟨rfl, hstay⟩⟩
    · simp [hnil] at hm
    · exact .inl (State.eq_of_top hm htop ▸ hk)
    · exact .inr (.inl ⟨hret, mayReturnTo_of_ret hok hl (htail ▸ hm)⟩)
    · rw [hstay, hl] at hm
      cases hm
      exact .inr (.inr ⟨rfl, rfl⟩)
  by_cases hquiet : l ≠ .ae1 ∧ l ≠ .ae2 ∧ l ≠ .rc1 ∧ (l = .sd6 ∨ l ∉ samplingLabels)
  case pos =>
    obtain ⟨hflow, hreturn⟩ := silent_asksNothing ht hquiet
    rcases hleads with hmem | ⟨hret, hm⟩ | ⟨-, rfl⟩
    · exact .of_asksNothing (hflow m hmem)
    · rcases hreturn hret m hm with hasks | ⟨rfl, rfl⟩
      · exact .of_asksNothing hasks
      · have hrs : t.rs = s.rs := by
          simp only [line] at ht
          split at ht <;> cases ht
          rfl
        exact .of_toggle fun _ => hrs ▸ h.regs .rs (by decide)
    · exact .of_asksNothing rfl
  case neg =>
    cases l <;> simp only [line, operate] at ht
    case ae1 =>
      split at ht <;> cases ht
      cases hm
      exact .of_enable (.inl rfl) ‹_›
    case ae2 =>
      have hflow : m = .na1 ∨ m = .ae2n1 := by simpa [flow, returns] using hleads
      cases ht
      refine .of_enable (.inr (hflow.imp_right .inl)) ?_
      rw [State.present, (State.SilentFrame.callNextActive s).cfgl]
      exact h.enable rfl
    case rc1 =>
      split at ht <;> cases ht
      · cases hm
        exact .of_enable (by simp) ‹_›
      · exact safeAt_of_raceReturn (mayReturnTo_of_ret hok hl hm) nofun
    case sd2 | sd3 | sd4 | sd5 =>
      split at ht <;> cases ht
      cases hm
      exact h.goto (by decide) (by decide) (by decide)
    all_goals simp [samplingLabels] at hquiet

theorem State.Safe.silent (h : s.Safe) (hl : s.ctlp = .line l :: stack)
    (ht : line l s = .silent t) : t.Safe where
  grounded := h.grounded.silent hl ht
  alive := by
    rw [(h.here l stack hl).silent_running h.grounded.control.stack hl ht]
    exact h.alive
  here _ _ hm := (h.here l stack hl).silent h.grounded.control.stack hl ht hm

/-! ### The operation of a line and the rest of it -/

/-- The first operation of a line reads a channel, the registers its line needs, no accumulator and
no marker. -/
theorem State.Provides.first (h : s.SafeAt l) (hchannel : s.present (channelOf i) = true)
    (hregs : readsOf i ⊆ needsReg l) (hbits : addsTo i = []) (hmarker : readsMarker i = false) :
    s.Provides i :=
  ⟨hchannel, fun r hr => h.regs r (hregs hr), by simp [hbits], by simp [hmarker]⟩

/-- What the operation of a line reads is there. -/
theorem State.SafeAt.provides (h : s.SafeAt l) (hc : line l s = .operation code after)
    (hop : operationAt s.mdir l = some i) : s.Provides i := by
  cases l
  case gw18 =>
    simp only [line] at hc
    split at hc <;> cases hc
    simp only [operationAt, Option.some.injEq] at hop
    split at hop <;> subst hop <;> exact ⟨rfl, nofun, nofun, fun _ => ‹_›⟩
  case gw20 =>
    simp only [line] at hc
    split at hc <;> cases hc
    cases hop
    have hds : s.ds.written = true := h.deferred rfl ‹_›
    exact ⟨rfl, by simpa [readsOf, disableReg, State.reg] using hds, nofun, nofun⟩
  case sd2 | sd3 | sd4 | sd5 =>
    simp only [line] at hc
    split at hc <;> cases hc
    cases hop
    exact .first h ‹_› (by decide) rfl rfl
  case rs4 | ae3 | na1 | na2 | na3 | ae2n1 | ae2n2 | ae2n3 | rc3 | rc4 | rc5 | rc8 | rc9 =>
    cases hop
    exact .first h (h.enable rfl) (by decide) rfl rfl
  all_goals cases hop <;> exact .first h rfl (by decide) rfl rfl

theorem State.Provides.accAddBit {a : AccSel} {b : Level} (h : (s.acc a).r ≠ 0#7) :
    s.Provides (.accAddBit a b) := by
  cases a <;> cases b <;> exact ⟨rfl, nofun, by simpa [Instr.accAddBit, addsTo] using h, nofun⟩

/-- The second operation of a line goes on where it is provided. -/
theorem second_running (hi : isSecond i = true) (hp : u.Provides i) (hr : u.runState = .running)
    (h : proceed (exec i u) (fun v => .next (v.goto m)) = .next t) : t.runState = .running := by
  have hop : isOperation i = true := by cases i <;> cases hi <;> rfl
  obtain ⟨v, hv, hcase⟩ := proceed_eq_next h
  have hrun : v.runState = .running := by
    rcases exec_second hi hv with ⟨b, rfl⟩ | hperf
    · exact absurd rfl ((exec_becomes hop hv).not_fault hp (by simp [hr]))
    · exact hperf.running (inRun_of_running hr)
  rcases hcase with ⟨-, h⟩ | ⟨hstop, -⟩
  · cases h; exact hrun
  · exact absurd hrun hstop

/-- After its operation a line takes no fault. -/
theorem State.Safe.rest_running (h : s.Safe) (hl : s.ctlp = .line l :: stack)
    (hc : line l s = .operation code after) (hop : operationAt s.mdir l = some i)
    (hu : s.Performed (writes i) u) (hr : u.runState = .running) (ht : after u = .next t) :
    t.runState = .running := by
  have hsafe := h.here l stack hl
  have hul := hu.ctlp.trans hl
  have hroom (hp : placeOf l = 1 ∨ placeOf l = 3 ∨ placeOf l = 7) : stack.length < 3 :=
    stackOk_room (hl ▸ h.grounded.control.stack) hp
  have hwritten (r : SampleReg) (hw : (s.reg r).written = true) : (u.reg r).written = true := by
    rwa [show u.reg r = s.reg r from hu.same.fields (.reg r) (reg_notMem_writes r i)]
  cases l <;> simp only [line, operate] at hc
  case rs3 =>
    cases hc; cases ht
    have hcs : u.cs.written = true := hwritten .cs (hsafe.regs .cs (by decide))
    split
    · rw [withReg_written (r := .cs) _ (by exact hcs)]
      exact (State.call_running (by exact hul) (hroom (by decide)) _ _).trans hr
    · exact hr
  case gw20 =>
    split at hc <;> cases hc
    cases ht
    exact (State.recordCall_running hul (hroom (by decide)) _ _ _).trans hr
  case gw19 =>
    cases hc
    obtain ⟨-, hfs, -⟩ := h.grounded.here _ _ hl
    replace hfs : u.fs.written = true := hwritten .fs hfs
    exact second_running (i := .emitResult) rfl
      ⟨rfl, by simpa [readsOf, State.reg] using hfs, nofun, nofun⟩ hr ht
  case sd3 =>
    split at hc <;> cases hc
    cases hop
    refine second_running (isSecond_accAddBit _ _) (.accAddBit ?_) hr ht
    rw [show u.acc .dout = s.acc .dout from hu.same.fields (.acc .dout) (by decide)]
    exact hsafe.bits .dout (by decide) ‹_›
  case sd5 =>
    split at hc <;> cases hc
    cases hop
    refine second_running (isSecond_accAddBit _ _) (.accAddBit ?_) hr ht
    rw [show u.acc .din = s.acc .din from hu.same.fields (.acc .din) (by decide)]
    exact hsafe.bits .din (by decide) ‹_›
  case ae1 | gw8 | rc10 | gw18 | sd2 | sd4 => split at hc <;> cases hc; cases ht; simp [hr]
  case rc6 | rc8 => cases hc; cases ht; split <;> exact hr
  case rs2 | rs4 | rs5 | rs6 | rs7 | rs8 | rs9 | ae2n1 | ae2n2 | ae2n3 | ae3 | ae4 | na1 | na2 | na3
    | rc2 | rc3 | rc4 | rc5 | rc7 | rc9 | gw1 | gw2 | gw3 | gw7 | gw13 | gw16 | sd1 =>
    cases hc; cases ht; simp [hr]
  case rc1 => split at hc <;> cases hc
  all_goals cases hc

/-- The step at the control point takes no fault. -/
theorem State.Safe.pointStep (h : s.Safe) (ht : Machine.pointStep s = .next t) :
    t.runState ≠ .fault := by
  rcases pointStep_cases h.grounded.control ht with ⟨-, rfl⟩ | ⟨l, stack, code, after, hl, hc, ht⟩
  · exact h.alive
  · obtain ⟨i, hop, -, ⟨hexec, -⟩ | ⟨u, -, hperf, hrun, hafter⟩⟩ :=
      operation_cases h.grounded.control hl hc ht
    · exact (exec_becomes (operationAt_isOperation hop) hexec).not_fault
        ((h.here l stack hl).provides hc hop) h.alive
    · rw [h.rest_running hl hc hop hperf hrun hafter]
      exact nofun

/-! ## The step, and the statement -/

theorem State.Safe.decoderStep (h : s.Safe) (ht : Machine.decoderStep s = .next t) :
    t.runState ≠ .fault := by
  rw [h.grounded.control.decoderStep_eq] at ht
  have hsettled : (settle settleFuel s).Safe :=
    settle_keeps_atLine (P := State.Safe) (fun _ _ _ _ hl ht h => h.silent hl ht) settleFuel h
  exact hsettled.pointStep ht

theorem State.Safe.withSchedule (h : s.Safe) (env : List Input) :
    ({ s with env := env } : State).Safe := by
  obtain ⟨⟨⟨hstack, hrunning, hdirection⟩, hbits, hgrounds⟩, halive, hhere⟩ := h
  refine ⟨⟨⟨hstack, hrunning, hdirection⟩, hbits, hgrounds⟩, halive, fun l stack hl => ?_⟩
  obtain ⟨hregs, henable, htoggle, hdeferred, hroom, hbits⟩ := hhere l stack hl
  exact ⟨hregs, henable, htoggle, hdeferred, hroom, hbits⟩

theorem ctrlWriteOp_not_fault {v : Sys2Proof.Word} (hr : s.runState ≠ .fault)
    (ht : ctrlWriteOp v s = .next t) : t.runState ≠ .fault := by
  have hgo : s.goBit.runState ≠ .fault := by
    unfold State.goBit; split
    · exact hr
    · split <;> exact nofun
  cases ht
  split <;> split <;> simp [hgo, hr]

theorem hostInput_not_fault {a : HostAccess} (hr : s.runState ≠ .fault)
    (ht : hostInput a s = .next t) : t.runState ≠ .fault := by
  unfold hostInput at ht
  split at ht
  case h_2 => cases ht; exact hr
  case h_1 i _ hi =>
    rcases decodeHa_cases (show decodeHa _ _ = some i from hi) with
      rfl | rfl | rfl | rfl | rfl | rfl | rfl | rfl
    case inr.inr.inr.inl => exact ctrlWriteOp_not_fault hr (exec_ctrlWrite _ s ▸ ht)
    all_goals cases ht; exact hr

end

/-- Settles O49, by the schedule's next entry; in a decoder step what is read is there at every line
without an operation (`State.Safe.silent`) and at the operation (`State.SafeAt.provides`). -/
theorem noInternalFault : Obligations.NoInternalFault := by
  unfold Obligations.NoInternalFault
  intro s t hproper hstep
  refine not_imp_not.mp fun hr => ?_
  rcases step_cases hstep with ⟨-, ht⟩ | ⟨e, rest, -, ht⟩
  · exact (hproper.safe hr).decoderStep ht
  · cases e with
    | decoder => exact ((hproper.safe hr).withSchedule rest).decoderStep ht
    | host a => exact hostInput_not_fault (s := { s with env := rest }) hr ht
    | bus addr write size data =>
      simp only [inputStep, busInput] at ht
      split at ht
      · exact hostInput_not_fault (s := { s with env := rest }) hr ht
      · cases ht; exact hr
    | grow c n => cases ht; exact hr
    | present cap hz =>
      simp only [inputStep, presentInput] at ht
      split at ht
      · cases ht
      · split at ht <;> cases ht
        exact hr
    | rst => cases ht; exact nofun

end Sys2Proof.Machine
end

section
/-! Where the clock cursor moves: by the operations of six lines, and in a word across no enable
transition, and the statement of 70_reset_and_hazards.md R193. -/

namespace Sys2Proof.Machine

open Sys2Proof

section
variable {s t u : State} {l : Label} {stack : List Point} {code : Code} {after : State → Out}

/-! ## Where the clock moves (70_reset_and_hazards.md R193) -/

/-- The lines whose operation moves the clock cursor. -/
theorem operationAt_movesClock {d : BitVec 2} {i : Instr} (h : operationAt d l = some i)
    (hw : Field.pos .clk ∈ writes i) : l ∈ [Label.ae4, .rs6, .rs7, .gw7, .gw13, .gw16] := by
  cases l
  case gw18 =>
    simp only [operationAt, Option.some.injEq] at h
    split at h <;> subst h <;> simp [writes] at hw
  case ae4 | rs6 | rs7 | gw7 | gw13 | gw16 => decide
  all_goals cases h <;> simp [writes] at hw

/-- Where a step moves the clock cursor, the operation of one of these lines was performed. -/
theorem pointStep_movesClock (hin : s.InControl) (ht : pointStep s = .next t)
    (hmoved : t.pos.clk ≠ s.pos.clk) :
    ∃ l stack i u, s.ctlp = .line l :: stack ∧ l ∈ [Label.ae4, .rs6, .rs7, .gw7, .gw13, .gw16] ∧
      operationAt s.mdir l = some i ∧ exec i s = .next u ∧ s.Performed (writes i) u ∧
      t.pos = u.pos := by
  rcases pointStep_cases hin ht with ⟨-, rfl⟩ | ⟨l, stack, code, after, hl, hc, ht⟩
  · exact absurd rfl hmoved
  · obtain ⟨i, hop, -, ⟨-, hstop⟩ | ⟨u, hexec, hperf, -, hafter⟩⟩ := operation_cases hin hl hc ht
    · exact absurd (hstop.same.fields (.pos .clk) (by simp)) hmoved
    · obtain ⟨v, hv, hf⟩ := line_rest_frame hc u
      cases hv.symm.trans hafter
      have hwrites : Field.pos .clk ∈ writes i := by
        by_contra hkeep
        exact hmoved (hf.pos ▸ hperf.same.fields (.pos .clk) hkeep)
      exact ⟨l, stack, i, u, hl, operationAt_movesClock hop hwrites, hop, hexec, hperf, hf.pos⟩

/-- In a word the edge crossed is the one that the race check has allowed. -/
theorem State.InLine.crossEdge (h : s.InLine l stack) (hl : Claim.at .advance l = true)
    (hu : exec .curAdvEdgeClk s = .next u) (hp : s.Performed [.pos .clk] u)
    (he : s.present .en = true) :
    ∀ e ∈ s.cap.wave.en.edges, ¬ (s.pos.en < e ∧ e ≤ u.pos.clk) := by
  obtain ⟨hrun, hmid⟩ := h.performed hp
  obtain ⟨-, hpos, hnext⟩ := (advEdgeOp_result hu).resolve_left fun hstop => hstop.not_running hrun
  obtain ⟨-, hclear⟩ : u.Meets .position ∧ u.Meets .clear := hmid.crossEdge hl hpos hnext
  have hen : u.pos.en = s.pos.en := hmid.pos_eq .en (by decide)
  rw [← hen, ← hmid.same.cap]
  exact hclear (by rwa [hmid.present])

end

/-- Settles O58: the step performs the operation of one of the six lines, and at the three of a word
the invariant says that the race check has allowed the edge. -/
theorem clockMovesOnlyWhereChecked : Obligations.ClockMovesOnlyWhereChecked := by
  unfold Obligations.ClockMovesOnlyWhereChecked
  intro s t hinv hr ht hmoved u
  have hu : u.Inv := settle_keepsInv hinv settleFuel
  have hf : s.SilentFrame u := settle_frame settleFuel s
  have hstep : pointStep u = .next t := (if_pos hr).symm.trans ht
  clear_value u
  rw [State.present, ← hf.cfgl, ← hf.cap, ← hf.pos]
  obtain ⟨l, stack, i, v, hl, hmem, hop, hexec, hperf, hpos⟩ :=
    pointStep_movesClock hu.sound.inControl hstep (hf.pos ▸ hmoved)
  refine ⟨⟨l, hmem, State.top_of_ctlp hl⟩, fun hword he => ?_⟩
  have hcross : Claim.at .advance l = true := contains_of_isAt hl hword
  have hline : u.InLine l stack := ⟨hu, hu.sound.running.mpr (by simp [hl]), hl⟩
  obtain rfl : i = .curAdvEdgeClk := by
    revert hop hcross
    cases l <;> simp +contextual [Claim.at, operationAt]
  rw [hpos]
  exact hline.crossEdge hcross hexec hperf he

end Sys2Proof.Machine
end

section
/-! Cancellation: the decoder never writes `CP` and takes a pending cancellation only at `GW.1`, no
input of a run but a reset clears it, and the statement of 60_exceptions.md R164 and R165. -/

namespace Sys2Proof.Machine

open Sys2Proof

section
variable {s t u : State} {l : Label} {code : Code} {after : State → Out}

/-! ## A decoder step (60_exceptions.md R164) -/

/-- After its operation a line goes on, or takes a fault. -/
theorem line_rest_runState (hc : line l s = .operation code after) (hr : u.runState = .running)
    (ht : after u = .next t) : t.runState = .running ∨ t.runState = .fault := by
  rcases line_rest hc u with ⟨v, hv, hf, -⟩ | ⟨i, m, hi, -, hv⟩
  · cases hv.symm.trans ht
    exact hf.runState.imp_left (·.trans hr)
  · rw [hv] at ht
    obtain ⟨w, hw, hcase⟩ := proceed_eq_next ht
    have hends : w.runState = .running ∨ w.runState = .fault := by
      rcases exec_second hi hw with ⟨b, rfl⟩ | hperf
      · exact .inr rfl
      · exact .inl (hperf.running (inRun_of_running hr))
    rcases hcase with ⟨-, h⟩ | ⟨-, rfl⟩
    · cases h; exact hends
    · exact hends

theorem operationAt_poll {d : BitVec 2} (h : operationAt d l = some .poll) : l = .gw1 := by
  cases l
  case gw1 => rfl
  case gw18 =>
    simp only [operationAt, Option.some.injEq] at h
    split at h <;> cases h
  all_goals cases h

/-- The step at the control point leaves `CP`, and ends a run with `CANCELLED` only at `GW.1`. -/
theorem pointStep_cancels (hin : s.InControl) (ht : pointStep s = .next t) :
    t.cp = s.cp ∧ (s.runState ≠ .doneCancel → t.runState = .doneCancel →
      s.top = some .gw1 ∧ s.cp = true) := by
  rcases pointStep_cases hin ht with ⟨-, rfl⟩ | ⟨l, stack, code, after, hl, hc, ht⟩
  · exact ⟨rfl, fun hs hcancel => absurd hcancel hs⟩
  · obtain ⟨i, hop, -, ⟨hexec, -⟩ | ⟨u, hexec, -, hrun, hafter⟩⟩ := operation_cases hin hl hc ht
    · have hends := exec_becomes (operationAt_isOperation hop) hexec
      refine ⟨hends.cp, fun hs hcancel => ?_⟩
      obtain ⟨rfl, hcp⟩ := hends.of_cancelled hs hcancel
      exact ⟨operationAt_poll hop ▸ State.top_of_ctlp hl, hcp⟩
    · obtain ⟨v, hv, hf⟩ := line_rest_frame hc u
      cases hv.symm.trans hafter
      refine ⟨hf.cp.trans (exec_becomes (operationAt_isOperation hop) hexec).cp,
        fun _ hcancel => ?_⟩
      rcases line_rest_runState hc hrun hafter with hr | hr <;> rw [hcancel] at hr <;> cases hr

theorem decoderStep_cp (hin : s.InControl) (ht : decoderStep s = .next t) : t.cp = s.cp := by
  rw [hin.decoderStep_eq] at ht
  rw [(pointStep_cancels (settle_inControl hin _) ht).1, (settle_frame settleFuel s).cp]

theorem decoderStep_cancelled (hin : s.InControl) (hr : s.inRun = true)
    (ht : decoderStep s = .next t) (hcancel : t.runState = .doneCancel) :
    (settle settleFuel s).top = some .gw1 ∧ s.cp = true := by
  have hf := settle_frame settleFuel s
  have halive : (settle settleFuel s).runState ≠ .doneCancel := by
    rcases hf.runState with hsame | hfault
    · rw [hsame]
      rintro hs
      simp [State.inRun, hs] at hr
    · simp [hfault]
  rw [hin.decoderStep_eq] at ht
  rw [← hf.cp]
  exact (pointStep_cancels (settle_inControl hin _) ht).2 halive hcancel

/-! ## An input of a run (60_exceptions.md R165) -/

/-- A host access during a run clears no pending cancellation. -/
theorem hostInput_pending {a : HostAccess} (hr : s.inRun = true) (hcp : s.cp = true)
    (ht : hostInput a s = .next t) : t.cp = true := by
  unfold hostInput at ht
  split at ht
  case h_2 => cases ht; exact hcp
  case h_1 i _ hi =>
    rcases decodeHa_cases (show decodeHa _ _ = some i from hi) with
      rfl | rfl | rfl | rfl | rfl | rfl | rfl | rfl
    case inr.inr.inr.inl =>
      rw [exec_ctrlWrite, ctrlWriteOp_of_inRun _ hr] at ht
      cases ht
      simp [hcp]
    all_goals cases ht; exact hcp

/-- Of the inputs of a run only a reset does. -/
theorem inputStep_pending {e : Input} (hin : s.InControl) (hr : s.inRun = true) (he : e ≠ .rst)
    (hcp : s.cp = true) (ht : inputStep e s = .next t) : t.cp = true := by
  cases e with
  | decoder => exact (decoderStep_cp hin ht).trans hcp
  | host a => exact hostInput_pending hr hcp ht
  | bus addr write size data =>
    simp only [inputStep, busInput] at ht
    split at ht
    · exact hostInput_pending hr hcp ht
    · cases ht; exact hcp
  | grow c n => cases ht; exact hcp
  | present cap hz => rw [inputStep, presentInput_inRun hr] at ht; cases ht
  | rst => exact absurd rfl he

end

/-- Settles O57: the poll is the only operation that cancels, it is that of `GW.1` alone, and what
clears `CP` is the start of a run or a reset. -/
theorem cancellationOnlyAtWordStart : Obligations.CancellationOnlyAtWordStart := by
  unfold Obligations.CancellationOnlyAtWordStart
  intro s t hsound
  have hin := hsound.inControl
  refine ⟨decoderStep_cp hin, decoderStep_cancelled hin, fun hstep hr hrst hcp => ?_⟩
  rcases step_cases hstep with ⟨-, ht⟩ | ⟨e, rest, henv, ht⟩
  · exact (decoderStep_cp hin ht).trans hcp
  · exact inputStep_pending (s := { s with env := rest }) ⟨hin.stack, hin.running, hin.direction⟩
      hr (fun he => hrst rest (he ▸ henv)) hcp ht

end Sys2Proof.Machine
end

section
/-! `CFG` is unread: whatever it holds, the decoder's step is the same and leaves it as it is, and
the statement of 70_reset_and_hazards.md R191. -/

namespace Sys2Proof.Machine

open Sys2Proof

/-- The state with another value of `CFG`. -/
def State.withCfg (s : State) (w : Sys2Proof.Word) : State := { s with cfg := w }

/-- `f` does the same whatever `CFG` holds, and keeps it. -/
def KeepsCfg (w : Sys2Proof.Word) (f : State → Out) : Prop :=
  ∀ s t, f s = .next t → f (s.withCfg w) = .next (t.withCfg w)

section
variable {s t u : State} {w : Sys2Proof.Word} {c : Channel} {r : SampleReg} {code : BitVec 8}

/-! ## What is read and written beside `CFG` -/

/-- A branch whose two sides leave `CFG` as it is, and whose condition does not read it. -/
theorem withCfg_ite {p : Prop} [Decidable p] {a b a' b' : State} (ha : a' = a.withCfg w)
    (hb : b' = b.withCfg w) : (if p then a' else b') = (if p then a else b).withCfg w := by
  rw [ha, hb]
  exact (apply_ite (fun u => u.withCfg w) p a b).symm

theorem withCfg_setReg (s : State) (w : Sys2Proof.Word) (r : SampleReg) (v : Sample) :
    (s.withCfg w).setReg r v = (s.setReg r v).withCfg w := by
  cases r <;> rfl

theorem withCfg_setAcc (s : State) (w : Sys2Proof.Word) (a : AccSel) (x : Accumulator) :
    (s.withCfg w).setAcc a x = (s.setAcc a x).withCfg w := by
  cases a <;> rfl

theorem withCfg_needsData (s : State) (w : Sys2Proof.Word) (c : Channel) (code : BitVec 8) :
    (s.withCfg w).needsData c code = (s.needsData c code).withCfg w :=
  withCfg_ite rfl rfl

theorem withCfg_withReg {f g : Sample → State} (hf : ∀ v, g v = (f v).withCfg w) :
    withReg r code (s.withCfg w) g = (withReg r code s f).withCfg w := by
  have hreg : (s.withCfg w).reg r = s.reg r := by cases r <;> rfl
  unfold withReg
  rw [hreg]
  exact withCfg_ite (hf _) rfl

/-! ## The operations -/

theorem KeepsCfg.of_update {f : State → State}
    (hf : ∀ s, f (s.withCfg w) = (f s).withCfg w) : KeepsCfg w fun s => .next (f s) := by
  intro s t h
  cases h
  exact congrArg _ (hf s)

theorem onChannel_keepsCfg {f : State → State} (hf : ∀ s, f (s.withCfg w) = (f s).withCfg w) :
    KeepsCfg w fun s => onChannel c code s f :=
  .of_update fun s => withCfg_ite (hf s) rfl

theorem advEdgeOp_keepsCfg : KeepsCfg w (advEdgeOp c code) := by
  refine onChannel_keepsCfg fun s => ?_
  rw [show (s.withCfg w).ahead c = s.ahead c from rfl]
  cases earliest (s.ahead c) with
  | some t => rfl
  | none => exact withCfg_needsData s w c code

theorem nextEdgeOp_keepsCfg : KeepsCfg w (nextEdgeOp c code) := by
  refine onChannel_keepsCfg fun s => ?_
  rw [show (s.withCfg w).ahead c = s.ahead c from rfl]
  cases earliest (s.ahead c) with
  | some t => rfl
  | none => exact withCfg_needsData s w c code

theorem advToOp_keepsCfg : KeepsCfg w (advToOp c r code) :=
  onChannel_keepsCfg fun _ => withCfg_withReg fun _ =>
    withCfg_ite rfl (withCfg_ite rfl (withCfg_needsData _ w c code))

theorem wouldCrossOp_keepsCfg : KeepsCfg w (wouldCrossOp c r code) :=
  onChannel_keepsCfg fun _ => withCfg_withReg fun _ =>
    withCfg_ite rfl (withCfg_ite rfl (withCfg_needsData _ w c code))

theorem accAddBitOp_keepsCfg {a : AccSel} {b : Level} : KeepsCfg w (accAddBitOp a b code) := by
  refine .of_update fun s => ?_
  rw [show (s.withCfg w).acc a = s.acc a by cases a <;> rfl]
  exact withCfg_ite rfl (withCfg_setAcc (s.performing code) w a _)

theorem emitBitMarkerOp_keepsCfg {k : MarkerKind} : KeepsCfg w (emitBitMarkerOp k code) := by
  refine .of_update fun s => ?_
  rw [show (s.withCfg w).mb[(s.withCfg w).k.toNat]? = s.mb[s.k.toNat]? from rfl]
  cases s.mb[s.k.toNat]? <;> rfl

theorem exec_keepsCfg {i : Instr} (hop : isOperation i = true) : KeepsCfg w (exec i) := by
  cases i with
  | curLevelClk | curLevelDout | curLevelDin | curLevelEn | curPosClk | curPosDout | curPosDin
  | curPosEn | curHasMoreClk | curHasMoreDout | curHasMoreDin | curHasMoreEn =>
    exact onChannel_keepsCfg fun _ => rfl
  | curAdvEdgeClk | curAdvEdgeDout | curAdvEdgeDin | curAdvEdgeEn => exact advEdgeOp_keepsCfg
  | curAdvToClk | curAdvToDout | curAdvToDin | curAdvToEn => exact advToOp_keepsCfg
  | curNextEdgeClk | curNextEdgeDout | curNextEdgeDin | curNextEdgeEn => exact nextEdgeOp_keepsCfg
  | curWouldCrossClk | curWouldCrossDout | curWouldCrossDin | curWouldCrossEn =>
    exact wouldCrossOp_keepsCfg
  | accResetDout | accResetDin => exact .of_update fun _ => rfl
  | accAddBitDout0 | accAddBitDout1 | accAddBitDin0 | accAddBitDin1 => exact accAddBitOp_keepsCfg
  | poll => exact .of_update fun _ => withCfg_ite rfl rfl
  | emitStart | emitDisable | emitResult | emitMarkerError =>
    exact .of_update fun _ => withCfg_withReg fun _ => rfl
  | emitError => exact .of_update fun _ => withCfg_withReg fun _ => withCfg_withReg fun _ => rfl
  | emitMarkerUp | emitMarkerDown => exact emitBitMarkerOp_keepsCfg
  | procRun | procSetup | procResync | procAdvActiveEnable | procNextActiveEdge | procRaceCheck
  | procGetWord | procSampleData | rdCfg | wrCfg | rdCtrl | wrCtrl | rdStatus | wrStatus | rdRsvd
  | wrRsvd | go | cancel => cases hop

/-! ## The lines -/

theorem withCfg_enter (s : State) (w : Sys2Proof.Word) (l : Label) :
    (s.withCfg w).enter l = (s.enter l).withCfg w :=
  withCfg_ite rfl rfl

theorem withCfg_call (s : State) (w : Sys2Proof.Word) (f e : Label) :
    (s.withCfg w).call f e = (s.call f e).withCfg w :=
  withCfg_enter (s.goto f) w e

variable {l : Label} {cd : Code} {after : State → Out}

/-- A line without an operation leaves `CFG`, and does not read it. -/
theorem line_silent_withCfg (h : line l s = .silent t) :
    line l (s.withCfg w) = .silent (t.withCfg w) := by
  cases l <;> simp only [line, operate] at h ⊢
  case run1 | run2 | run3 | rs1 => cases h; exact congrArg _ (withCfg_call s w _ _)
  case run4 | su1 | gw10 | gwRet => cases h; rfl
  case ae2 => cases h; exact congrArg _ (withCfg_ite (withCfg_call s w _ _) rfl)
  case ae1 => split at h <;> cases h; exact if_pos ‹_›
  case rc1 =>
    split at h <;> cases h
    · exact if_pos ‹_›
    · exact if_neg ‹_›
  case rc10 | gw8 | gw18 | gw20 | sd2 | sd3 | sd4 | sd5 =>
    split at h <;> cases h
    exact if_neg ‹_›
  case gw4 | gw4next => cases h; exact congrArg _ (withCfg_ite rfl rfl)
  case gw5 | gw11 | gw14 =>
    cases h
    exact congrArg _ (withCfg_enter { s.goto _ with raceEmit := _ } w _)
  case gw6 | gw15 => cases h; exact congrArg _ (withCfg_ite (withCfg_call (s.record _) w _ _) rfl)
  case gw9 | gw17 => cases h; exact congrArg _ (withCfg_ite (withCfg_call s w _ _) rfl)
  case gw12 =>
    cases h
    exact congrArg _ (withCfg_ite (withCfg_withReg fun v =>
      congrArg State.toMarkers (withCfg_setReg { s with nr := true } w .ds v)) rfl)
  case sd6 => cases h; exact congrArg _ (withCfg_ite (withCfg_withReg fun _ => rfl) rfl)
  all_goals cases h

theorem KeepsCfg.proceed {f : State → Out} (hf : KeepsCfg w f)
    (hafter : ∀ u, after u = .next t → after (u.withCfg w) = .next (t.withCfg w))
    (h : Machine.proceed (f s) after = .next t) :
    Machine.proceed (f (s.withCfg w)) after = .next (t.withCfg w) := by
  obtain ⟨u, hu, hcase⟩ := proceed_eq_next h
  rw [hf s u hu]
  rcases hcase with ⟨hrun, h⟩ | ⟨hnot, rfl⟩
  · exact (if_pos hrun).trans (hafter u h)
  · exact if_neg hnot

/-- A second operation and a `goto`. -/
theorem second_withCfg {i : Instr} {m : Label} (hi : isSecond i = true)
    (h : proceed (exec i u) (fun v => .next (v.goto m)) = .next t) :
    proceed (exec i (u.withCfg w)) (fun v => .next (v.goto m)) = .next (t.withCfg w) := by
  have hop : isOperation i = true := by cases i <;> cases hi <;> rfl
  exact (exec_keepsCfg hop).proceed (fun v ht => by cases ht; rfl) h

/-- The rest of a line too. -/
theorem line_rest_withCfg (hc : line l s = .operation cd after) (h : after u = .next t) :
    after (u.withCfg w) = .next (t.withCfg w) := by
  cases l <;> simp only [line, operate] at hc
  case rs3 =>
    cases hc; cases h
    exact congrArg _ (withCfg_ite (withCfg_withReg (s := u.record .polarityMismatch) fun v =>
      (congrArg (State.call · .rs4 .na1)
        (withCfg_setReg (u.record .polarityMismatch) w .es v)).trans (withCfg_call _ w _ _)) rfl)
  case rc6 | rc8 => cases hc; cases h; exact congrArg _ (withCfg_ite rfl rfl)
  case gw19 => cases hc; exact second_withCfg rfl h
  case sd3 | sd5 => split at hc <;> cases hc; exact second_withCfg (isSecond_accAddBit _ _) h
  case ae1 | rc10 | gw8 | gw18 | sd2 | sd4 => split at hc <;> cases hc; cases h; rfl
  case gw20 =>
    split at hc <;> cases hc
    cases h
    exact congrArg _ (withCfg_call (u.record .transactionEnd) w .gwRet .rs1)
  case rc1 => split at hc <;> cases hc
  case run1 | run2 | run3 | run4 | su1 | rs1 | ae2 | gw4 | gw5 | gw6 | gw9 | gw10 | gw11 | gw12
    | gw14 | gw15 | gw17 | gw4next | gwRet | sd6 => cases hc
  all_goals cases hc; cases h; rfl

theorem line_operation_withCfg (w : Sys2Proof.Word) (hc : line l s = .operation cd after) :
    line l (s.withCfg w) = .operation cd after :=
  State.SameBranch.operation (s := s) {} hc

/-! ## The step, and the statement -/

theorem settle_withCfg (n : Nat) (s : State) :
    settle n (s.withCfg w) = (settle n s).withCfg w := by
  induction n generalizing s with
  | zero => rfl
  | succ n ih =>
    match hl : s.ctlp with
    | [] | .word cd :: stack =>
      have htop : s.top = none := by simp [State.top, hl]
      rw [settle_of_settled (settled_of_top_none htop),
        settle_of_settled (settled_of_top_none (s := s.withCfg w) htop)]
    | .line l :: stack =>
      have hl' : (s.withCfg w).ctlp = .line l :: stack := hl
      cases hc : line l s with
      | silent t => rw [settle_silent hl hc, settle_silent hl' (line_silent_withCfg hc), ih]
      | operation cd after =>
        rw [settle_of_settled (settled_of_operation hl hc),
          settle_of_settled (settled_of_operation hl' (line_operation_withCfg w hc))]

theorem pointStep_withCfg (hin : s.InControl) (h : pointStep s = .next t) :
    pointStep (s.withCfg w) = .next (t.withCfg w) := by
  rcases pointStep_cases hin h with ⟨hl, rfl⟩ | ⟨l, stack, cd, after, hl, hc, h⟩
  · have hr : t.inRun = false := by
      by_contra hr
      exact hin.running.mp (by simpa using hr) hl
    exact pointStep_betweenRuns (s := t.withCfg w) hl hr
  · obtain ⟨i, hop, hdec, -⟩ := operation_cases hin hl hc h
    rw [pointStep_operation (s := s.withCfg w) hl (line_operation_withCfg w hc),
      execCode_of_decode hdec]
    rw [execCode_of_decode hdec] at h
    exact (exec_keepsCfg (operationAt_isOperation hop)).proceed
      (fun u ht => line_rest_withCfg hc ht) h

end

/-- Settles O59, line by line: no line and no operation of the decoder reads `CFG`. -/
theorem cfgDoesNotReachTheRun : Obligations.CfgDoesNotReachTheRun := by
  unfold Obligations.CfgDoesNotReachTheRun
  intro s t w hsound ht
  have hin := hsound.inControl
  have hin' : (s.withCfg w).InControl := ⟨hin.stack, hin.running, hin.direction⟩
  change decoderStep (s.withCfg w) = .next (t.withCfg w)
  rw [hin.decoderStep_eq] at ht
  rw [hin'.decoderStep_eq, settle_withCfg]
  exact pointStep_withCfg (settle_inControl hin _) ht

end Sys2Proof.Machine
end

section
/-! What ends a run with `INTERNAL_FAULT` and what a reset leaves: the statements of
60_exceptions.md R162 and 70_reset_and_hazards.md R186. -/

namespace Sys2Proof.Machine

open Sys2Proof

/-! ## Internal faults (60_exceptions.md R162) -/

section
variable {c : Channel} {r : SampleReg} {code : BitVec 8} {s : State}

theorem onChannel_faults (f : State → State) (h : s.present c = false) :
    onChannel c code s f = .next (s.faulted code) :=
  onChannel_absent f h

theorem withReg_faults (f : Sample → State) (h : (s.reg r).written = false) :
    withReg r code s f = s.faulted code :=
  withReg_unwritten f h

theorem advToOp_unwritten (hp : s.present c = true) (h : (s.reg r).written = false) :
    advToOp c r code s = .next (s.faulted code) :=
  (onChannel_present _ hp).trans (congrArg _ (withReg_faults _ h))

theorem wouldCrossOp_unwritten (hp : s.present c = true) (h : (s.reg r).written = false) :
    wouldCrossOp c r code s = .next (s.faulted code) :=
  (onChannel_present _ hp).trans (congrArg _ (withReg_faults _ h))

theorem emitErrorOp_unwritten (h : s.es.written = false ∨ s.cs.written = false) :
    emitErrorOp code s = .next (s.faulted code) := by
  refine congrArg Host.Outcome.next ?_
  cases hes : s.es.written with
  | false => exact withReg_faults (r := .es) _ hes
  | true =>
    exact (withReg_written (r := .es) _ hes).trans
      (withReg_faults (r := .cs) _ (h.resolve_left (by simp [hes])))

theorem emitBitMarkerOp_past (kind : MarkerKind) (h : s.mb.length ≤ s.k.toNat) :
    emitBitMarkerOp kind code s = .next (s.faulted code) := by
  rw [emitBitMarkerOp, List.getElem?_eq_none h]
  rfl

/-- `SD.6` with a full buffer, or without a sample in `CS`. -/
theorem State.noteSample_faults (h : s.mb.length = 64 ∨ s.cs.written = false) :
    s.noteSample = s.faulted s.op := by
  unfold State.noteSample
  split
  case isTrue hroom => exact withReg_faults (r := .cs) _ (h.resolve_left (by omega))
  case isFalse => rfl

end

/-- Settles O14: each operation by the branch in which what it reads is missing. -/
theorem internalFaults : Obligations.InternalFaults := by
  unfold Obligations.InternalFaults
  intro s
  refine ⟨fun c r hp => ?_, fun c r hp hw => ?_, fun hcs => ?_, emitErrorOp_unwritten,
    fun r hr => ?_, fun hfs => ?_,
    fun hk => ⟨emitBitMarkerOp_past .up hk, emitBitMarkerOp_past .down hk⟩,
    fun hfull _ => congrArg Line.silent (State.noteSample_faults hfull)⟩
  · rw [exec_level_eq, exec_pos_eq, exec_advEdge_eq, exec_advTo_eq, exec_nextEdge_eq,
      exec_wouldCross_eq, exec_hasMore_eq]
    exact ⟨onChannel_faults _ hp, onChannel_faults _ hp, onChannel_faults _ hp,
      onChannel_faults _ hp, onChannel_faults _ hp, onChannel_faults _ hp, onChannel_faults _ hp⟩
  · rw [exec_advTo_eq, exec_wouldCross_eq]
    exact ⟨advToOp_unwritten hp hw, wouldCrossOp_unwritten hp hw⟩
  · exact ⟨congrArg _ (withReg_faults (r := .cs) _ hcs),
      congrArg _ (withReg_faults (r := .cs) _ hcs)⟩
  · exact congrArg _ (withReg_faults _ hr)
  · exact congrArg _ (withReg_faults (r := .fs) _ hfs)

/-! ## Reset (70_reset_and_hazards.md R186) -/

/-- Settles O45: the step is the schedule's reset, and the values are those of `State.reset`. -/
theorem hardwareReset : Obligations.HardwareReset := by
  unfold Obligations.HardwareReset
  exact fun s rest henv => step_of_env_cons henv

end Sys2Proof.Machine
end
